-- ==== Sys2Proof/Word.lean ====
section
/-! DEFINITION. The byte of the control link and of the flash, and the type of four things, one per port. -/

namespace Sys2Proof

/-- One byte of a frame, of a body or of a journal slot (12_record_and_frame_formats). -/
abbrev Byte := BitVec 8

/-- One value for each of the ports 0 to 3 (00_scope: ports are numbered 0 to 3). -/
structure PerPort (α : Type) where
  p0 : α
  p1 : α
  p2 : α
  p3 : α
deriving DecidableEq, Repr

/-- The same value at all four ports. -/
def PerPort.same {α : Type} (a : α) : PerPort α := ⟨a, a, a, a⟩

end Sys2Proof
end

