-- ==== Sys2Proof/Syntax.lean ====
section
/-! DEFINITION. The commands of the part, one constructor for each row of the opcode table, and the types of their operands. -/

namespace Sys2Proof

/-- Where the minute arrival of a second stands among that second's own effects: before the Port Meter's sample,
between the sample and what the battery reading brings, or after both (R96, R124; log entry 7). Where the reading begins
holdover the second and third are one (R93). -/
inductive SecondOrder where
  | minuteFirst
  | minuteMiddle
  | minuteLast
deriving DecidableEq, Repr

/-- What the analogue inputs give at one second event: averages over the second that ends at it (R92, R120, R122). -/
structure Sample where
  /-- battery average in whole mV, before the hold at 20,000 -/
  battery : Nat
  /-- current average of each port in whole mA, before the conditioning of R92 -/
  currents : PerPort Nat
  /-- backup cell in mV, before the hold at 5,000 -/
  backup : Nat
  /-- the order the manual leaves open -/
  order : SecondOrder
deriving DecidableEq, Repr

/-- Which of two digest requests made in one event joins the digest list first (R68; log entry 8). -/
inductive DigestOrder where
  | tokenFirst
  | storeFirst
deriving DecidableEq, Repr

/-- What an erase that was cut short, or that failed its verify, leaves of one slot (log entry 11). -/
inductive SlotLeft where
  | kept
  | damaged
  | blank
deriving DecidableEq, Repr

/-- What a loss of supply leaves of the flash operation it cuts: whether a byte of the slot being written had been
programmed (R138), and what each slot of a sector being erased holds; a slot not listed is damaged. -/
structure FlashCut where
  programmed : Bool
  eraseLeft : List SlotLeft
deriving DecidableEq, Repr

/-- The forty commands of spec/opcode_table.json. A request carries its tag and its body. -/
inductive Instr where
  /-- STATUS (R173) -/
  | status (tag : Byte) (body : List Byte)
  /-- NOTICES (R172) -/
  | notices (tag : Byte) (body : List Byte)
  /-- ENTER_TOKEN (R44) -/
  | enterToken (tag : Byte) (body : List Byte)
  /-- PORT (R115) -/
  | port (tag : Byte) (body : List Byte)
  /-- UNLATCH (R116) -/
  | unlatch (tag : Byte) (body : List Byte)
  /-- METER (R98) -/
  | meter (tag : Byte) (body : List Byte)
  /-- HISTORY (R148) -/
  | history (tag : Byte) (body : List Byte)
  /-- CARRY (R155) -/
  | carry (tag : Byte) (body : List Byte)
  /-- HANDOFF (R159) -/
  | handoff (tag : Byte) (body : List Byte)
  /-- RECEIPTS (R160) -/
  | receipts (tag : Byte) (body : List Byte)
  /-- PROVISION (R176) -/
  | provision (tag : Byte) (body : List Byte)
  /-- IDENTITY (R178) -/
  | identity (tag : Byte) (body : List Byte)
  /-- CLOCK (R87) -/
  | clock (tag : Byte) (body : List Byte)
  /-- RESTART (R131) -/
  | restart (tag : Byte) (body : List Byte)
  /-- CHARACTER_RECEIVED (R165, R166): the character, and whether its stop bit was found -/
  | characterReceived (char : Byte) (stopBit : Bool)
  /-- FRAME_END (R167) -/
  | frameEnd
  /-- BREAK (R170) -/
  | lineBreak
  /-- BREAK_END (R170) -/
  | lineBreakEnd
  /-- FRAME_SENT (R169) -/
  | frameSent
  /-- SECOND_EVENT (R73) -/
  | secondEvent (x : Sample)
  /-- CRYSTAL_QUALIFIED (R77) -/
  | crystalQualified
  /-- CRYSTAL_GAP (R78) -/
  | crystalGap
  /-- CRYSTAL_QUALIFICATION_RESET (R77) -/
  | crystalQualificationReset
  /-- TRIP (R111): the port and the current, in mA, its comparator sees -/
  | trip (p : Fin 4) (current : Nat)
  /-- RAMP_STEP (R109) -/
  | rampStep (p : Fin 4)
  /-- TRIP_WAIT_END (R112) -/
  | tripWaitEnd (p : Fin 4)
  /-- ON_RUN_COMPLETE (R114) -/
  | onRunComplete (p : Fin 4)
  /-- PENALTY_WAIT_END (R67) -/
  | penaltyWaitEnd
  /-- TOKEN_CHECK_DIGEST_DONE (R51) -/
  | tokenCheckDigestDone
  /-- RECEIPT_ENVELOPE_DONE (R65) -/
  | receiptEnvelopeDone
  /-- ITEM_ENVELOPE_CHECK_DONE (R155) -/
  | itemEnvelopeCheckDone (order : DigestOrder)
  /-- ENVELOPE_RENEWAL_DONE (R156) -/
  | envelopeRenewalDone
  /-- JOURNAL_WRITE_END (R138): whether the verify passed -/
  | journalWriteEnd (verify : Bool)
  /-- SECTOR_ERASE_END (R139): whether the verify passed, and what a failed erase leaves -/
  | sectorEraseEnd (verify : Bool) (left : List SlotLeft)
  /-- PROGRAMMING_END (R177): whether the verify passed -/
  | programmingEnd (verify : Bool)
  /-- START_EVENT (R130) -/
  | startEvent (order : DigestOrder)
  /-- SUPPLY_LOSS (R126) -/
  | supplyLoss (cut : FlashCut)
  /-- CLOCK_DOMAIN_POWER_UP (R72) -/
  | clockDomainPowerUp
  /-- CLOCK_DOMAIN_POWER_LOSS (R72) -/
  | clockDomainPowerLoss (cut : FlashCut)
  /-- CORE_POWER_UP (R128) -/
  | corePowerUp
deriving DecidableEq, Repr

end Sys2Proof
end

