-- ==== Sys2Proof/Decode.lean ====
section
/-! DEFINITION. The command a table word spells. No row of the opcode table has bits, so no word spells one. -/

namespace Sys2Proof

/-- The command that a word spells by the table's bits. spec/opcode_table.json gives every row an empty list of fields
and no fixed bits: a command is not a word (the frames of requests are read by Machine/Link.lean). -/
def decodeTableWord (_nbits _w : Nat) : Option Instr := none

end Sys2Proof
end

