-- ==== Sys2Proof/Config.lean ====
section
/-! DEFINITION. What the manual leaves to the part: the keyed digest, the part revision and the arrival of crystal edges. Each is opaque, so that no proof can rest on a value of it. -/

namespace Sys2Proof

/-- The part's keyed digest, a function of a 128-bit key and a list of fields (R68, Section 3.7). The manual does not
give the function. The width each use takes is the number of low bits read (log entry 9). -/
opaque Config.keyedDigest : BitVec 128 → List Nat → Nat

/-- The part revision less 1, so that the revision is a number 1..255 fixed in the part (R178, log entry 10). -/
opaque Config.partRevisionLessOne : Fin 255

/-- Whether a crystal edge arrives in the n-th millisecond that passes on an empty queue (R77, R78). Nothing in the
manual says when a crystal runs (log entry 6). -/
opaque Config.crystalEdge : Nat → Bool

end Sys2Proof
end

