-- ==== Sys2Proof/Machine/State.lean ====
section
/-! DEFINITION. The state of the FK420: one structure for each of its eleven blocks, the clock domain, the flash, the Provisioning Record, and the queue of commands. -/

namespace Sys2Proof.Machine

/-! ## Clock time -/

/-- A clock time: day and minute of day (Section 4.1). -/
structure ClockTime where
  day : Nat
  minute : Nat
deriving DecidableEq, Repr

/-! ## Tariffs and the Provisioning Record (02, 11) -/

/-- How clock time passed without tallies is charged (Table 2-1). -/
inductive ClockMode where
  | calendar
  | service
deriving DecidableEq, Repr

/-- A tariff entry (Table 2-1). -/
structure Tariff where
  number : Nat
  standing : Nat
  prices : PerPort Nat
  allowance : Nat
  graceDays : Nat
  graceDuty : Nat
  gracePorts : PerPort Bool
  debtLimit : Nat
  portSet : PerPort Bool
  catchUpCap : Nat
  mode : ClockMode
deriving DecidableEq, Repr

/-- The tariff read where there is none: every field zero. -/
def Tariff.none : Tariff :=
  ⟨0, 0, .same 0, 0, 0, 0, .same false, 0, .same false, 0, .calendar⟩

/-- The fields of the Provisioning Record but its check (Table 11-1). -/
structure Settings where
  kitNumber : Nat
  district : Nat
  kitKey : BitVec 128
  districtKey : BitVec 128
  initialIndex : Nat
  initialCredit : Nat
  initialTime : ClockTime
  currentLimits : PerPort Nat
  shedRanks : PerPort Nat
  f1 : Nat
  f2 : Nat
  f3 : Nat
  hysteresis : Nat
  cutoffIndex : Nat
  restartMargin : Nat
  acceptAge : Nat
  rcTrim : Int
  tariffs : List Tariff
deriving DecidableEq, Repr

/-- What is read where no valid record is held: cutoff index 0 and margin 1,000 mV (R127), trim 0 (R76), no tariffs.
The shed ranks of 1 keep shed level 0 from shedding a port (log entry 34). -/
def Settings.unprovisioned : Settings where
  kitNumber := 0
  district := 0
  kitKey := 0
  districtKey := 0
  initialIndex := 0
  initialCredit := 0
  initialTime := ⟨0, 0⟩
  currentLimits := .same 0
  shedRanks := .same 1
  f1 := 0
  f2 := 0
  f3 := 0
  hysteresis := 0
  cutoffIndex := 0
  restartMargin := 1000
  acceptAge := 0
  rcTrim := 0
  tariffs := []

/-- The one-time-programmable memory (R175, R177). -/
inductive Otp where
  /-- every byte unprogrammed -/
  | blank
  /-- programmed, with its record check -/
  | written (fields : Settings) (check : BitVec 32)
  /-- a programming that was cut off or failed its verify -/
  | spoiled
deriving DecidableEq, Repr

/-- The condition of the Provisioning Record (R175). -/
inductive RecordCondition where
  | blank
  | programming
  | valid
  | damaged
deriving DecidableEq, Repr

/-- A request routed by the link: its number, tag, kind and body (R168). -/
structure Request where
  /-- the model's number of the frame that brought it -/
  id : Nat
  tag : Byte
  kind : Byte
  body : List Byte
deriving DecidableEq, Repr

/-- How far provisioning has come (R177). -/
inductive ProvisioningPhase where
  /-- provisioning is not in progress -/
  | idle
  /-- the fields are being programmed and verified -/
  | programming (fields : Settings)
  /-- the journal prepares its ring -/
  | ring
deriving DecidableEq, Repr

/-- The Provisioning Record block. -/
structure Provisioning where
  otp : Otp
  condition : RecordCondition
  phase : ProvisioningPhase
  request : Option Request
deriving DecidableEq, Repr

/-! ## The clock domain (04, 3.6, 7.3) -/

/-- The oscillator the seconds are counted from (Table 4-1). -/
inductive TimeSource where
  | crystal
  | rc
deriving DecidableEq, Repr

/-- Whether the time is trusted (R79). -/
inductive ClockCondition where
  | running
  | lost
deriving DecidableEq, Repr

/-- The Day Clock's record (Table 4-1). -/
structure DayClock where
  day : Nat
  minute : Nat
  second : Nat
  timeSet : Bool
  source : TimeSource
  qualification : Nat
  condition : ClockCondition
  hold : Nat
  anchorAge : Nat
deriving DecidableEq, Repr

/-- The record of a clock domain freshly powered (R72). -/
def DayClock.fresh : DayClock := ⟨0, 0, 0, false, .rc, 0, .lost, 0, 0⟩

/-- The penalty state (R66): count, wait length in minutes, wait remaining in seconds. -/
structure Penalty where
  count : Nat
  waitLength : Nat
  waitRemaining : Nat
deriving DecidableEq, Repr

/-- The penalty state of a clock domain freshly powered (R72). -/
def Penalty.fresh : Penalty := ⟨5, 1, 60⟩

/-- The backup cell's state (R122). -/
inductive BackupState where
  | good
  | weak
deriving DecidableEq, Repr

/-- The clock domain: whether it is powered, and what it houses. -/
structure ClockDomain where
  powered : Bool
  clock : DayClock
  /-- the milliseconds since the last crystal edge, held at 4 (R77, R78; log entry 6) -/
  crystalGap : Nat
  penalty : Penalty
  backupReading : Nat
  backup : BackupState
deriving DecidableEq, Repr

/-- The clock domain as it is when freshly powered (R72, R122). No crystal edge has yet been seen (log entry 6), and the
backup reading is 0 until the first measurement (log entry 38). -/
def ClockDomain.fresh : ClockDomain := ⟨true, .fresh, 4, .fresh, 0, .good⟩

/-- The clock domain without power; its contents are lost (R72, log entry 12). -/
def ClockDomain.off : ClockDomain := { ClockDomain.fresh with powered := false }

/-! ## The Credit Account (01) -/

/-- The account states (Table 1-2). -/
inductive AccountState where
  | unprovisioned
  | locked
  | active
  | grace
  | paidOff
deriving DecidableEq, Repr

/-- The account's fields that every journal entry carries (Table 1-1, R23). -/
structure Account where
  state : AccountState
  balance : Nat
  debt : Nat
  graceBudget : Nat
  graceArmed : Bool
  rs : Nat
  re : Nat
  allowance : Nat
  /-- the active tariff's number, 0 while there is none (R28) -/
  activeTariff : Nat
  stagedTariff : Option Nat
  ct : Nat
  ht : Nat
  ft : Nat
  vt : Nat
  marks : PerPort Nat
  lastTally : ClockTime
deriving DecidableEq, Repr

/-- The account of a part whose record fails its check: every field zero (R27). -/
def Account.unprovisioned : Account where
  state := .unprovisioned
  balance := 0
  debt := 0
  graceBudget := 0
  graceArmed := false
  rs := 0
  re := 0
  allowance := 0
  activeTariff := 0
  stagedTariff := none
  ct := 0
  ht := 0
  ft := 0
  vt := 0
  marks := .same 0
  lastTally := ⟨0, 0⟩

/-- The Credit Account block: the account, the pin and the pending tally point (R21), and whether the start event has
loaded the account (R173). -/
structure AccountBlock where
  acct : Account
  pinned : Bool
  pendingTally : Option ClockTime
  loaded : Bool
deriving DecidableEq, Repr

/-- The account block at the start of the core (R26). -/
def AccountBlock.start : AccountBlock := ⟨.unprovisioned, false, none, false⟩

/-! ## The Token Unit and the Keyed Digest Unit (03) -/

/-- Where an intake entry came from (Section 3.3). -/
inductive TokenSource where
  /-- an ENTER_TOKEN request, to be answered with its tag -/
  | keypad (req : Request)
  /-- an own-kit token item of a CARRY -/
  | relay
deriving DecidableEq, Repr

/-- An entry of the intake queue; its place in the list is its place in arrival order. -/
structure IntakeEntry where
  source : TokenSource
  token : BitVec 66
deriving DecidableEq, Repr

/-- The Token Unit's service state (R48). -/
inductive TokenService where
  | idle
  | awaitDigest
  | inFlight
deriving DecidableEq, Repr

/-- The replay window: the highest accepted serial and the marks, rising (Section 3.4.3). -/
structure Window where
  high : Nat
  marks : List Nat
deriving DecidableEq, Repr

/-- The window before the first token. -/
def Window.empty : Window := ⟨0, []⟩

/-- The results the Token Unit gives (Table 3-3). -/
inductive TokenResult where
  | accepted
  | intakeFull
  | badFormat
  | penaltyWait
  | badCheck
  | unknownKind
  | duplicate
  | serialTooOld
  | expired
  | notApplicable
  | wouldOverflow
  | notDurable
deriving DecidableEq, Repr

/-- The last relay result (R64). -/
structure RelayOutcome where
  kind : Nat
  serial : Nat
  result : TokenResult
deriving DecidableEq, Repr

/-- The Token Unit block. -/
structure TokenUnit where
  intake : List IntakeEntry
  service : TokenService
  window : Window
  lastRelay : Option RelayOutcome
deriving DecidableEq, Repr

/-- The Token Unit at the start of the core (R71). -/
def TokenUnit.start : TokenUnit := ⟨[], .idle, .empty, none⟩

/-- What a digest is for (Table 3-6). -/
inductive DigestPurpose where
  | tokenCheck
  | ownReceipt (serial created : Nat)
  | itemCheck
  | renewal
deriving DecidableEq, Repr

/-- A digest request with the key read when it was made and the fields (R68, R69). -/
structure DigestRequest where
  purpose : DigestPurpose
  key : BitVec 128
  fields : List Nat
deriving DecidableEq, Repr

/-! ## The Port Meter (05) -/

/-- A port's sense state (R99). -/
inductive SenseState where
  | clear
  | fault
deriving DecidableEq, Repr

/-- What the meter keeps for one port (Table 5-1). -/
structure MeterPort where
  count : Nat
  residue : Nat
  lastCurrent : Nat
  sense : SenseState
  senseRun : Nat
deriving DecidableEq, Repr

/-- A port of the meter with nothing counted. -/
def MeterPort.start : MeterPort := ⟨0, 0, 0, .clear, 0⟩

/-- The Port Meter block, with the METER requests it holds (R98). -/
structure Meter where
  ports : PerPort MeterPort
  lastVoltage : Nat
  sampling : Bool
  held : List Request
deriving DecidableEq, Repr

/-- The meter at the start of the core (R102): counts, residues and currents 0, every sense state CLEAR. That a VALID
part's counts and residues read 0 until the start event restores them is the model's choice (log entry 13). -/
def Meter.start : Meter := ⟨.same .start, 0, false, []⟩

/-! ## The Port Switches (06) -/

/-- The port states (Table 6-3). -/
inductive PortState where
  | idle
  | barred
  | ramping
  | on
  | tripWait
  | latched
deriving DecidableEq, Repr

/-- What the Port Switches keep for one port (Table 6-1). -/
structure Port where
  state : PortState
  /-- demand: true for ON -/
  demand : Bool
  demandDuty : Nat
  accountCap : Nat
  shedCap : Nat
  target : Nat
  duty : Nat
  retry : Nat
  stepTimer : Nat
  tripWait : Nat
  onRun : Nat
  driven : Bool
deriving DecidableEq, Repr

/-- A port at the start of the core (R119). -/
def Port.start : Port := ⟨.idle, false, 0, 0, 0, 0, 0, 0, 0, 0, 0, false⟩

/-- The Port Switches block. -/
structure Switches where
  ports : PerPort Port
  switching : Bool
deriving DecidableEq, Repr

/-- The switches at the start of the core (R119). -/
def Switches.start : Switches := ⟨.same .start, true⟩

/-! ## The Credit Journal (08) -/

/-- What a token's anchor does to the clock (Table 4-2). -/
inductive AnchorOutcome where
  | none
  | confirm
  | move (target : ClockTime) (n : Nat) (crossing : Bool)
  | hold (target : ClockTime)
deriving DecidableEq, Repr

/-- The kind body of a TOKEN entry (Table 8-2); the serial is the serial mark (R182). -/
structure TokenBody where
  kind : Nat
  serial : Nat
  value : Nat
  issueDay : Nat
  outcome : AnchorOutcome
deriving DecidableEq, Repr

/-- The kind of an entry with its kind body (Table 8-2). The bad-sector set has bit s for sector s. -/
inductive EntryKind where
  | checkpoint (window : Window) (bad : BitVec 8)
  | token (body : TokenBody)
  | tally
  | suspend
deriving DecidableEq, Repr

/-- A journal entry (R133). -/
structure Entry where
  sequence : Nat
  kind : EntryKind
  time : ClockTime
  snapshot : Account
  check : BitVec 32
deriving DecidableEq, Repr

/-- The contents of a slot of 96 bytes. An entry is valid when the check among its bytes matches the rest (R132). -/
inductive Slot where
  | blank
  | damaged
  /-- a completed entry, with the 96 bytes its slot holds; a byte left erased is none (R182) -/
  | entry (e : Entry) (image : List (Option Byte))
deriving DecidableEq, Repr

/-- The flash: slot number (sector × 60 + slot) and contents, numbers rising, none blank; an unlisted slot is blank. -/
abbrev Flash := List (Nat × Slot)

/-- A TOKEN entry as the Token Unit submits it (R60). The last two say which notices the commit calls for besides
ACCOUNT_STATE (R25, R33; log entry 32). -/
structure TokenEntry where
  body : TokenBody
  time : ClockTime
  snapshot : Account
  lowCredit : Bool
  tariffApplied : Bool
deriving DecidableEq, Repr

/-- An entry of the write queue (R136). A TALLY may carry a RESTART (R137). -/
inductive Queued where
  | tally (restart : Bool)
  | suspend
  | token (t : TokenEntry)
deriving DecidableEq, Repr

/-- What the flash is doing (Table 8-1). -/
inductive FlashOp where
  | none
  /-- the oldest queued entry is being written to the next slot -/
  | write (e : Entry)
  /-- a sector-head checkpoint is being written to slot 0 of the current sector -/
  | head (e : Entry)
  | erase (sector : Nat)
deriving DecidableEq, Repr

/-- What replay has found: the newest complete entry's account and time, and the window rebuilt (R145). -/
structure Found where
  acct : Account
  time : ClockTime
  window : Window
deriving DecidableEq, Repr

/-- What the journal's flash work belongs to. -/
inductive JournalWork where
  /-- the write queue and its compactions (R138, R139) -/
  | ordinary
  /-- replay's move-on (R146) -/
  | replay (found : Found)
  /-- ring preparation, erasing the sectors in order (R147) -/
  | ringErase
  /-- ring preparation, heading the first sector (R147) -/
  | ringHead
deriving DecidableEq, Repr

/-- The Credit Journal block, less the flash, which keeps its contents when the core is off. -/
structure Journal where
  failed : Bool
  queue : List Queued
  sector : Nat
  nextSlot : Nat
  nextSequence : Nat
  bad : BitVec 8
  op : FlashOp
  flushWait : Bool
  work : JournalWork
  held : List Request
deriving DecidableEq, Repr

/-- The journal at the start of the core (R149); its position is unknown until replay gives it (log entry 13). -/
def Journal.start : Journal := ⟨false, [], 0, 0, 1, 0, .none, false, .ordinary, []⟩

/-! ## The Supply Monitor (07) -/

/-- The power states (Table 7-4); off while the core is off. -/
inductive Power where
  | off
  | starting
  | run
  | holdover
deriving DecidableEq, Repr

/-- How far the replay asked for by the restart filter has come (R129, R130). -/
inductive Replay where
  | notAsked
  | working
  | done (found : Option Found)
deriving DecidableEq, Repr

/-- The Supply Monitor's core part. -/
structure Supply where
  battery : Nat
  shedLevel : Nat
  power : Power
  filter : Nat
  restartPending : Bool
  restartRequest : Option Request
  givenUp : Bool
  replay : Replay
deriving DecidableEq, Repr

/-- The monitor at the start of the core, in a given power state (R128). -/
def Supply.start (p : Power) : Supply := ⟨0, 0, p, 0, false, none, false, .notAsked⟩

/-! ## The Relay Store (09) -/

/-- A token held for another kit (Table 9-1). -/
structure RelayRecord where
  destination : Nat
  token : BitVec 66
  issueDay : Nat
  expiryDay : Nat
  hop : Nat
  envelope : BitVec 32
  offers : Nat
deriving DecidableEq, Repr

/-- A receipt (Table 9-2). -/
structure Receipt where
  kit : Nat
  serial : Nat
  created : Nat
  envelope : BitVec 32
  hands : Nat
deriving DecidableEq, Repr

/-- An item of a bundle (Table 12-6). -/
inductive RelayItem where
  | token (destination : Nat) (token : BitVec 66) (issueDay expiryDay hop : Nat) (envelope : BitVec 32)
  | receipt (kit serial created : Nat) (envelope : BitVec 32)
deriving DecidableEq, Repr

/-- The results of relay items (Tables 9-4 and 9-5). -/
inductive ItemResult where
  | queued
  | intakeFull
  | badEnvelope
  | expired
  | hopLimit
  | alreadyDelivered
  | merged
  | stored
  | storeFull
  | receiptIgnored
  | receiptMatched
  | receiptStored
deriving DecidableEq, Repr

/-- A CARRY in service: the items not yet settled, the results so far, and the destination and serial of the record
whose envelope is being renewed (R155, R156). -/
structure CarryService where
  request : Request
  items : List RelayItem
  results : List ItemResult
  renewing : Option (Nat × Nat)
deriving DecidableEq, Repr

/-- The Relay Store block. -/
structure RelayStore where
  records : List RelayRecord
  receipts : List Receipt
  service : Option CarryService
  waiting : List Request
deriving DecidableEq, Repr

/-- The store at the start of the core (R164). -/
def RelayStore.start : RelayStore := ⟨[], [], none, []⟩

/-! ## The Control Link (10) -/

/-- The thirteen causes, in the order of Table 10-3. -/
inductive NoticeCause where
  | accountState
  | lowCredit
  | tokenDone
  | tariffApplied
  | clockLost
  | clockSource
  | shedLevel
  | portTrip
  | portLatched
  | senseFault
  | journalFailed
  | linkOverrun
  | backupWeak
deriving DecidableEq, Repr

/-- A frame held in the receive ring (R166): the model's number, its first position and its bytes. -/
structure HeldFrame where
  id : Nat
  start : Nat
  bytes : List Byte
deriving DecidableEq, Repr

/-- The condition of the frame in reception (Table 10-1). -/
inductive FrameCondition where
  | good
  | damaged
  | oversized
  | overrun
deriving DecidableEq, Repr

/-- The frame in reception: its first position, its count, the bytes it holds in the ring, and its condition. -/
structure Reception where
  start : Nat
  count : Nat
  bytes : List Byte
  condition : FrameCondition
deriving DecidableEq, Repr

/-- A completed reply (R169). The last field is true for the reply OK to a RESTART, whose last byte restarts the core. -/
structure Reply where
  id : Nat
  tag : Byte
  kind : Byte
  body : List Byte
  restarts : Bool
deriving DecidableEq, Repr

/-- A frame of the transmit list. A NOTICE frame carries no set until its sending begins (R171). -/
inductive TxFrame where
  | reply (r : Reply)
  | notice (set : Option (BitVec 16))
deriving DecidableEq, Repr

/-- The Control Link block. -/
structure Link where
  receiving : Bool
  held : List HeldFrame
  writePos : Nat
  reception : Option Reception
  transmit : List TxFrame
  /-- the bytes of the frame being sent, the oldest of the transmit list -/
  onLine : Option (List Byte)
  completed : List Reply
  cancelled : List Nat
  /-- the requests handed to owners and not yet answered -/
  handed : List Nat
  /-- bit k is the k-th cause of Table 10-3 (R179) -/
  notices : BitVec 16
  overruns : Nat
  errors : Nat
  nextId : Nat
deriving DecidableEq, Repr

/-- The link at the start of the core, receiving (R174), or without its core, not receiving. -/
def Link.start (receiving : Bool) : Link :=
  ⟨receiving, [], 0, none, [], none, [], [], [], 0, 0, 0, 0⟩

/-! ## The whole part -/

/-- The reasons for which a step can stop with a fault: none. The manual gives every event a described outcome. -/
inductive Fault where
deriving DecidableEq, Repr

/-- The reasons for which a step can be refused. -/
inductive Refusal where
  /-- Raised by an arm of exec that has no meaning yet. Safe: nothing can be proved about such a command. -/
  | notModelled (mnemonic : String)
deriving DecidableEq, Repr

/-- The state of the part: the queue of commands, what survives the core (the record, the flash, the clock domain), and
the blocks of the core. -/
structure State where
  pending : List Instr
  provisioning : Provisioning
  flash : Flash
  domain : ClockDomain
  account : AccountBlock
  tokens : TokenUnit
  digests : List DigestRequest
  meter : Meter
  switches : Switches
  supply : Supply
  journal : Journal
  relay : RelayStore
  link : Link
  /-- the model's count of the milliseconds passed on an empty queue, which numbers the free values of crystalEdge -/
  idleMilliseconds : Nat
deriving DecidableEq, Repr

/-- The part right after reset: never provisioned, its clock domain freshly powered (R72), its core just powered up
(R128), nothing commanded (log entry 1). -/
def State.reset : State where
  pending := []
  provisioning := ⟨.blank, .blank, .idle, none⟩
  flash := []
  domain := .fresh
  account := .start
  tokens := .start
  digests := []
  meter := .start
  switches := .start
  supply := .start .starting
  journal := .start
  relay := .start
  link := .start true
  idleMilliseconds := 0

end Sys2Proof.Machine
end

