-- ==== Sys2Proof/Machine/Formats.lean ====
section
/-! DEFINITION. The byte layouts of 12_record_and_frame_formats: numbers, checks, codes, frames, tokens, relay items, journal entries and the Provisioning Record. -/

namespace Sys2Proof

/-! ## Ports -/

/-- The value of port `i`. -/
def PerPort.get {α : Type} (x : PerPort α) (i : Fin 4) : α :=
  match i with
  | 0 => x.p0
  | 1 => x.p1
  | 2 => x.p2
  | 3 => x.p3

/-- `x` with port `i` set to `a`. -/
def PerPort.set {α : Type} (x : PerPort α) (i : Fin 4) (a : α) : PerPort α :=
  match i with
  | 0 => { x with p0 := a }
  | 1 => { x with p1 := a }
  | 2 => { x with p2 := a }
  | 3 => { x with p3 := a }

/-- `f` at each port. -/
def PerPort.map {α β : Type} (f : α → β) (x : PerPort α) : PerPort β :=
  ⟨f x.p0, f x.p1, f x.p2, f x.p3⟩

/-- `f` at each port of two. -/
def PerPort.zip {α β γ : Type} (f : α → β → γ) (x : PerPort α) (y : PerPort β) : PerPort γ :=
  ⟨f x.p0 y.p0, f x.p1 y.p1, f x.p2 y.p2, f x.p3 y.p3⟩

/-- The four values in port order. -/
def PerPort.toList {α : Type} (x : PerPort α) : List α := [x.p0, x.p1, x.p2, x.p3]

/-- The bytes of four values in port order. -/
def PerPort.bytes {α : Type} (f : α → List Byte) (x : PerPort α) : List Byte :=
  f x.p0 ++ f x.p1 ++ f x.p2 ++ f x.p3

end Sys2Proof

namespace Sys2Proof.Machine

/-! ## Numbers (Section 12.1) -/

/-- A number as `n` bytes, most significant first. -/
def natBytes : Nat → Nat → List Byte
  | 0, _ => []
  | n + 1, v => BitVec.ofNat 8 (v / 256 ^ n) :: natBytes n v

/-- The number that bytes, most significant first, stand for. -/
def bytesNat (bytes : List Byte) : Nat := bytes.foldl (fun acc b => acc * 256 + b.toNat) 0

/-- The `n`-byte number at an offset of a body. -/
def fieldAt (body : List Byte) (offset n : Nat) : Nat := bytesNat ((body.drop offset).take n)

/-- A yes-or-no byte. -/
def boolByte (b : Bool) : Byte := if b then 1 else 0

/-- A clock time: day in 2 bytes, minute in 2. -/
def timeBytes (t : ClockTime) : List Byte := natBytes 2 t.day ++ natBytes 2 t.minute

/-! ## Checks (R179, R182) -/

/-- `f` taken `n` times. -/
def repeated {α : Type} (f : α → α) : Nat → α → α
  | 0, a => a
  | n + 1, a => repeated f n (f a)

/-- One bit of the CRC-16 with polynomial x^16 + x^12 + x^5 + 1. -/
def crc16Bit (r : BitVec 16) : BitVec 16 :=
  if r.msb then (r <<< 1) ^^^ 0x1021#16 else r <<< 1

/-- The CRC-16 of a frame: register from all ones, each byte most significant bit first, sent as it stands (R179). -/
def crc16 (bytes : List Byte) : BitVec 16 :=
  bytes.foldl (fun (r : BitVec 16) (b : Byte) => repeated crc16Bit 8 (r ^^^ (b.setWidth 16 <<< 8))) 0xFFFF#16

/-- One bit of the CRC-32 with polynomial 0x04C11DB7. -/
def crc32Bit (r : BitVec 32) : BitVec 32 :=
  if r.msb then (r <<< 1) ^^^ 0x04C11DB7#32 else r <<< 1

/-- The CRC-32 of an entry or of the record: register from all ones, most significant bit first, as it stands (R182). -/
def crc32 (bytes : List Byte) : BitVec 32 :=
  bytes.foldl (fun (r : BitVec 32) (b : Byte) => repeated crc32Bit 8 (r ^^^ (b.setWidth 32 <<< 24))) 0xFFFFFFFF#32

/-! ## Codes (Tables 12-1 to 12-3) -/

/-- The fourteen requests. -/
inductive RequestKind where
  | status
  | notices
  | enterToken
  | port
  | unlatch
  | meter
  | history
  | carry
  | handoff
  | receipts
  | provision
  | identity
  | clock
  | restart
deriving DecidableEq, Repr

/-- The code of a request kind (Table 12-1). -/
def RequestKind.code : RequestKind → Byte
  | .status => 1
  | .notices => 2
  | .enterToken => 3
  | .port => 4
  | .unlatch => 5
  | .meter => 6
  | .history => 7
  | .carry => 8
  | .handoff => 9
  | .receipts => 10
  | .provision => 11
  | .identity => 12
  | .clock => 13
  | .restart => 14

/-- The request kind of a code; none for a kind that is not a request, the NOTICE frame's 128 among them (R168). -/
def requestKindOf (code : Byte) : Option RequestKind :=
  match code.toNat with
  | 1 => some .status
  | 2 => some .notices
  | 3 => some .enterToken
  | 4 => some .port
  | 5 => some .unlatch
  | 6 => some .meter
  | 7 => some .history
  | 8 => some .carry
  | 9 => some .handoff
  | 10 => some .receipts
  | 11 => some .provision
  | 12 => some .identity
  | 13 => some .clock
  | 14 => some .restart
  | _ => none

/-- The reply results (Table 12-2, first column). -/
inductive ReplyResult where
  | ok
  | badRequest
  | unknownRequest
  | notProvisioned
  | busy
  | notDurable
  | alreadyProvisioned
  | badProvision
deriving DecidableEq, Repr

/-- The code of a reply result. -/
def ReplyResult.code : ReplyResult → Byte
  | .ok => 0
  | .badRequest => 1
  | .unknownRequest => 2
  | .notProvisioned => 3
  | .busy => 4
  | .notDurable => 5
  | .alreadyProvisioned => 6
  | .badProvision => 7

/-- The code of a token result (Table 12-2, second column; NOT_DURABLE is 5). -/
def TokenResult.code : TokenResult → Byte
  | .accepted => 16
  | .intakeFull => 17
  | .badFormat => 18
  | .penaltyWait => 19
  | .badCheck => 20
  | .unknownKind => 21
  | .duplicate => 22
  | .serialTooOld => 23
  | .expired => 24
  | .notApplicable => 25
  | .wouldOverflow => 26
  | .notDurable => 5

/-- The code of a relay item result (Table 12-2, third column). -/
def ItemResult.code : ItemResult → Byte
  | .queued => 1
  | .intakeFull => 2
  | .badEnvelope => 3
  | .expired => 4
  | .hopLimit => 5
  | .alreadyDelivered => 6
  | .merged => 7
  | .stored => 8
  | .storeFull => 9
  | .receiptIgnored => 10
  | .receiptMatched => 11
  | .receiptStored => 12

/-- The reasons of BAD_PROVISION. -/
inductive ProvisionReason where
  | recordDamaged
  | outOfRange
  | thresholdOrder
  | tariffNumbers
deriving DecidableEq, Repr

/-- The code of a BAD_PROVISION reason (Table 12-2's note). -/
def ProvisionReason.code : ProvisionReason → Byte
  | .recordDamaged => 1
  | .outOfRange => 2
  | .thresholdOrder => 3
  | .tariffNumbers => 4

/-- Table 12-3, account state. -/
def AccountState.code : AccountState → Byte
  | .unprovisioned => 0
  | .locked => 1
  | .active => 2
  | .grace => 3
  | .paidOff => 4

/-- Table 12-3, port state. -/
def PortState.code : PortState → Byte
  | .idle => 0
  | .barred => 1
  | .ramping => 2
  | .on => 3
  | .tripWait => 4
  | .latched => 5

/-- The journal states (R135). -/
inductive JournalState where
  | ready
  | busyWrite
  | busyErase
  | failed
deriving DecidableEq, Repr

/-- Table 12-3, journal state. -/
def JournalState.code : JournalState → Byte
  | .ready => 0
  | .busyWrite => 1
  | .busyErase => 2
  | .failed => 3

/-- Table 12-3, power state. No reply is made in HOLDOVER or with the core off, which have no code. -/
def Power.code : Power → Byte
  | .run => 1
  | _ => 0

/-- Table 12-3, condition of the clock. -/
def ClockCondition.code : ClockCondition → Byte
  | .running => 0
  | .lost => 1

/-- Table 12-3, time source. -/
def TimeSource.code : TimeSource → Byte
  | .crystal => 0
  | .rc => 1

/-- Table 12-3, sense state. -/
def SenseState.code : SenseState → Byte
  | .clear => 0
  | .fault => 1

/-- Table 12-3, record condition. -/
def RecordCondition.code : RecordCondition → Byte
  | .blank => 0
  | .programming => 1
  | .valid => 2
  | .damaged => 3

/-- The place of a cause in Table 10-3, counted from 0. -/
def NoticeCause.index : NoticeCause → Nat
  | .accountState => 0
  | .lowCredit => 1
  | .tokenDone => 2
  | .tariffApplied => 3
  | .clockLost => 4
  | .clockSource => 5
  | .shedLevel => 6
  | .portTrip => 7
  | .portLatched => 8
  | .senseFault => 9
  | .journalFailed => 10
  | .linkOverrun => 11
  | .backupWeak => 12

/-! ## Frames (R179) -/

/-- The bytes of a frame: tag, kind, body length, body, frame check. -/
def frameBytes (tag kind : Byte) (body : List Byte) : List Byte :=
  let front := tag :: kind :: BitVec.ofNat 8 body.length :: body
  front ++ natBytes 2 (crc16 front).toNat

/-- The tag, kind and body of well-formed frame bytes; none when the count is below 5 or differs from the body length
plus 5, or when the frame check does not match (R167). -/
def parseFrame (bytes : List Byte) : Option (Byte × Byte × List Byte) :=
  match bytes with
  | tag :: kind :: len :: rest =>
    if rest.length = len.toNat + 2 then
      if (crc16 (bytes.take (3 + len.toNat))).toNat = bytesNat (rest.drop len.toNat) then
        some (tag, kind, rest.take len.toNat)
      else none
    else none
  | _ => none

/-- The bytes of the NOTICE frame: tag 0, kind 128, the set in 2 bytes. -/
def noticeBytes (set : BitVec 16) : List Byte := frameBytes 0 128 (natBytes 2 set.toNat)

/-! ## Tokens (Table 12-5) -/

/-- Bits 65..62: the kind. -/
def tokenKind (n : BitVec 66) : Nat := (n.extractLsb' 62 4).toNat
/-- Bits 61..46: the serial. -/
def tokenSerial (n : BitVec 66) : Nat := (n.extractLsb' 46 16).toNat
/-- Bits 45..36: the issue day field. -/
def tokenDayField (n : BitVec 66) : Nat := (n.extractLsb' 36 10).toNat
/-- Bits 35..22: the value as one plain integer. -/
def tokenValue (n : BitVec 66) : Nat := (n.extractLsb' 22 14).toNat
/-- Bits 21..0: the check. -/
def tokenCheck (n : BitVec 66) : BitVec 22 := n.extractLsb' 0 22

/-- The token number of five fields. -/
def tokenNumber (kind : BitVec 4) (serial : BitVec 16) (dayField : BitVec 10) (value : BitVec 14)
    (check : BitVec 22) : BitVec 66 :=
  kind ++ serial ++ dayField ++ value ++ check

/-! ## Relay items (Table 12-6) -/

/-- The bytes of a relay item; the six high bits of the token number's 9 bytes are 0 (R180). -/
def itemBytes : RelayItem → List Byte
  | .token dest tok issue expiry hop env =>
    1 :: (natBytes 4 dest ++ natBytes 9 tok.toNat ++ natBytes 2 issue ++ natBytes 2 expiry
      ++ natBytes 1 hop ++ natBytes 4 env.toNat)
  | .receipt kit serial created env =>
    2 :: (natBytes 4 kit ++ natBytes 2 serial ++ natBytes 2 created ++ natBytes 4 env.toNat)

/-! ## Tariffs and the Provisioning Record (Tables 12-11 and 12-12) -/

/-- A set of ports as bits 0 to 3. -/
def portSetBits (x : PerPort Bool) : Nat :=
  x.p0.toNat + 2 * x.p1.toNat + 4 * x.p2.toNat + 8 * x.p3.toNat

/-- Bits `lo` to `lo` + 3 of a number as a set of ports. -/
def portSetOf (v lo : Nat) : PerPort Bool :=
  ⟨v.testBit lo, v.testBit (lo + 1), v.testBit (lo + 2), v.testBit (lo + 3)⟩

/-- Bit 7 of byte 19: 0 CALENDAR, 1 SERVICE. -/
def ClockMode.bit : ClockMode → Nat
  | .calendar => 0
  | .service => 1

/-- The 21 bytes of a tariff entry (Table 12-12). -/
def tariffBytes (t : Tariff) : List Byte :=
  natBytes 1 t.number ++ natBytes 3 t.standing ++ t.prices.bytes (natBytes 2) ++ natBytes 3 t.allowance
    ++ natBytes 2 t.graceDuty ++ natBytes 2 t.debtLimit
    ++ natBytes 1 (t.graceDays + 8 * t.catchUpCap + 128 * t.mode.bit)
    ++ natBytes 1 (portSetBits t.portSet + 16 * portSetBits t.gracePorts)

/-- The 240 bytes of the record's fields, laid out as the PROVISION body (Table 12-11; log entry 22). -/
def settingsBytes (f : Settings) : List Byte :=
  natBytes 4 f.kitNumber ++ natBytes 2 f.district ++ natBytes 16 f.kitKey.toNat
    ++ natBytes 16 f.districtKey.toNat ++ natBytes 1 f.initialIndex ++ natBytes 4 f.initialCredit
    ++ timeBytes f.initialTime ++ f.currentLimits.bytes (natBytes 2) ++ f.shedRanks.bytes (natBytes 1)
    ++ natBytes 2 f.f1 ++ natBytes 2 f.f2 ++ natBytes 2 f.f3 ++ natBytes 2 f.hysteresis
    ++ natBytes 1 f.cutoffIndex ++ natBytes 2 f.restartMargin ++ natBytes 1 f.acceptAge
    ++ [BitVec.ofInt 8 f.rcTrim] ++ f.tariffs.flatMap tariffBytes

/-- The record check (R182). -/
def recordCheck (f : Settings) : BitVec 32 := crc32 (settingsBytes f)

/-! ## Journal entries (Table 12-10) -/

/-- An anchor outcome's code (Table 12-3). -/
def AnchorOutcome.code : AnchorOutcome → Byte
  | .none => 0
  | .confirm => 1
  | .move _ _ _ => 2
  | .hold _ => 3

/-- Target time, n and crossing flag of an outcome; 0 where it carries none (R182). -/
def AnchorOutcome.bytes : AnchorOutcome → List Byte
  | .none => natBytes 7 0
  | .confirm => natBytes 7 0
  | .move t n crossing => timeBytes t ++ natBytes 2 n ++ [boolByte crossing]
  | .hold t => timeBytes t ++ natBytes 3 0

/-- The marks of a window as a 32-bit number: bit k − 1 is 1 when serial H − k is marked (R182). -/
def marksBits (w : Window) : Nat :=
  w.marks.foldl (fun acc m => acc ||| (1 <<< (w.high - m - 1))) 0

/-- The kind's code (Table 12-3). -/
def EntryKind.code : EntryKind → Byte
  | .checkpoint _ _ => 1
  | .token _ => 2
  | .tally => 3
  | .suspend => 4

/-- The 15 bytes of the kind body (R182). -/
def EntryKind.bytes : EntryKind → List Byte
  | .checkpoint w bad => natBytes 2 w.high ++ natBytes 4 (marksBits w) ++ natBytes 1 bad.toNat ++ natBytes 8 0
  | .token b => natBytes 1 b.kind ++ natBytes 2 b.serial ++ natBytes 2 b.value ++ natBytes 2 b.issueDay
      ++ [b.outcome.code] ++ b.outcome.bytes
  | .tally => natBytes 15 0
  | .suspend => natBytes 15 0

/-- The snapshot's bytes, offsets 9 to 73. -/
def accountBytes (a : Account) : List Byte :=
  [a.state.code] ++ natBytes 4 a.balance ++ natBytes 2 a.debt ++ natBytes 2 a.graceBudget
    ++ [boolByte a.graceArmed] ++ natBytes 1 a.rs ++ natBytes 4 a.re ++ natBytes 4 a.allowance
    ++ natBytes 1 a.activeTariff ++ natBytes 1 (a.stagedTariff.getD 0)
    ++ natBytes 6 a.ct ++ natBytes 6 a.ht ++ natBytes 6 a.ft ++ natBytes 6 a.vt
    ++ a.marks.bytes (natBytes 4) ++ timeBytes a.lastTally

/-- Bytes 0 to 88 of an entry (Table 12-10). -/
def entryFields (sequence : Nat) (kind : EntryKind) (time : ClockTime) (snapshot : Account) : List Byte :=
  natBytes 4 sequence ++ [kind.code] ++ timeBytes time ++ accountBytes snapshot ++ kind.bytes

/-- The 93 bytes of an entry, its check last. -/
def entryBytes (e : Entry) : List Byte :=
  entryFields e.sequence e.kind e.time e.snapshot ++ natBytes 4 e.check.toNat

/-- An entry with its check computed (R133, R182). -/
def sealEntry (sequence : Nat) (kind : EntryKind) (time : ClockTime) (snapshot : Account) : Entry :=
  ⟨sequence, kind, time, snapshot, crc32 (entryFields sequence kind time snapshot)⟩

/-! ## Slots (R132, R182) -/

/-- The 96 bytes of the slot an entry is written to: the entry's 93, and the last 3 left erased (R182). -/
def slotImage (e : Entry) : List (Option Byte) := (entryBytes e).map some ++ List.replicate 3 none

/-- The bytes of a part of a slot; none when one of them is erased. -/
def programmedBytes : List (Option Byte) → Option (List Byte)
  | [] => some []
  | none :: _ => none
  | some b :: rest => (programmedBytes rest).map (b :: ·)

/-- Whether the check in bytes 89 to 92 of a slot matches its bytes 0 to 88; the last 3 bytes take no part (R182). -/
def imageChecks (image : List (Option Byte)) : Bool :=
  match programmedBytes (image.take 93) with
  | none => false
  | some bytes => decide (bytes.length = 93) && decide (bytesNat (bytes.drop 89) = (crc32 (bytes.take 89)).toNat)

end Sys2Proof.Machine
end

