-- ==== Sys2Proof/Machine/Flags.lean ====
section
/-! DEFINITION. The notice set: its causes as bits, and the raising of a cause (R171). -/

namespace Sys2Proof.Machine

/-- The set holding one cause, as R179 numbers the bits. -/
def causeBit (c : NoticeCause) : BitVec 16 := 1#16 <<< c.index

/-- Whether a frame of the transmit list is a NOTICE frame whose sending has not begun (R171). -/
def TxFrame.waitingNotice : TxFrame → Bool
  | .notice none => true
  | _ => false

/-- The link with one NOTICE frame queued, unless one is waiting already (R171: at most one waits). -/
def Link.queueNotice (l : Link) : Link :=
  if l.transmit.any TxFrame.waitingNotice then l else { l with transmit := l.transmit ++ [.notice none] }

/-- A cause is added to the notice set. When the set was empty a NOTICE frame joins the transmit list if none waits
(R171). In HOLDOVER the transmit list stands as it is (R174, log entry 19); with the core off the cause is lost (R89). -/
def raise (c : NoticeCause) (s : State) : State :=
  match s.supply.power with
  | .off => s
  | .holdover => { s with link.notices := s.link.notices ||| causeBit c }
  | _ =>
    let l := { s.link with notices := s.link.notices ||| causeBit c }
    { s with link := if s.link.notices = 0 then l.queueNotice else l }

/-- A cause raised when a condition holds. -/
def raiseIf (b : Bool) (c : NoticeCause) (s : State) : State := if b then raise c s else s

end Sys2Proof.Machine
end

