-- ==== Sys2Proof/Machine/Ops.lean ====
section
/-! DEFINITION. The operations the blocks share: clock times, settings and tariffs, the flash, replies, digest requests, and the core's power-up and switching off. -/

namespace Sys2Proof.Machine

/-! ## Clock times (R81, Section 4.1) -/

/-- The minute count of a clock time. -/
def ClockTime.count (t : ClockTime) : Nat := t.day * 1440 + t.minute

/-- The clock time of a minute count. -/
def ClockTime.ofCount (c : Nat) : ClockTime := ⟨c / 1440, c % 1440⟩

/-- Whether a clock time is later than another (Section 4.1). -/
def ClockTime.laterThan (a b : ClockTime) : Bool :=
  decide (b.day < a.day) || (decide (a.day = b.day) && decide (b.minute < a.minute))

/-- The tally points after `a`, up to and including `b` (R81). -/
def tallyPoints (a b : ClockTime) : Nat := b.count / 15 - a.count / 15

/-- The latest tally point at or before a clock time (R81). -/
def latestTallyPoint (b : ClockTime) : ClockTime := .ofCount (15 * (b.count / 15))

/-- The clock's time. -/
def DayClock.time (c : DayClock) : ClockTime := ⟨c.day, c.minute⟩

/-! ## Settings and tariffs (R28, R175) -/

/-- The record's fields while the record is VALID, and the defaults of an unprovisioned part otherwise (R175). -/
def Provisioning.settings (p : Provisioning) : Settings :=
  match p.condition, p.otp with
  | .valid, .written f _ => f
  | _, _ => .unprovisioned

/-- Whether provisioning is in progress (R177). -/
def Provisioning.inProgress (p : Provisioning) : Bool := p.phase ≠ .idle

/-- Whether the part is provisioned: the record is VALID and provisioning is complete. -/
def Provisioning.provisioned (p : Provisioning) : Bool := p.condition = .valid && !p.inProgress

/-- The settings the Supply Monitor works with: the record's once provisioning is complete (R177, log entry 25). -/
def State.levels (s : State) : Settings :=
  if s.provisioning.provisioned then s.provisioning.settings else .unprovisioned

/-- The tariff of a number in the table (R28); the empty tariff where the table has no such number. -/
def tariffOf (f : Settings) (number : Nat) : Tariff :=
  (f.tariffs.find? (fun t => t.number = number)).getD .none

/-- Whether a number is that of an entry of the table. -/
def hasTariff (f : Settings) (number : Nat) : Bool := f.tariffs.any (fun t => t.number = number)

/-- cutoff = 10,200 + 200 × index mV (Table 7-2). -/
def Settings.cutoff (f : Settings) : Nat := 10200 + 200 * f.cutoffIndex

/-- restart level = cutoff + restart margin (Table 7-2). -/
def Settings.restartLevel (f : Settings) : Nat := f.cutoff + f.restartMargin

/-! ## Flash (R132) -/

/-- The number of a slot of a sector. -/
def slotNumber (sector slot : Nat) : Nat := sector * 60 + slot

/-- The contents of a slot; an unlisted slot is blank. -/
def flashRead (f : Flash) (k : Nat) : Slot :=
  match f with
  | [] => .blank
  | (k', c) :: rest => if k = k' then c else flashRead rest k

/-- The flash with slot `k` holding `c`, kept in its canonical form. -/
def flashWrite (f : Flash) (k : Nat) (c : Slot) : Flash :=
  match f with
  | [] => if c = .blank then [] else [(k, c)]
  | (k', c') :: rest =>
    if k < k' then (if c = .blank then (k', c') :: rest else (k, c) :: (k', c') :: rest)
    else if k = k' then (if c = .blank then rest else (k, c) :: rest)
    else (k', c') :: flashWrite rest k c

/-- The flash with every slot of a sector blank. -/
def flashErase (f : Flash) (sector : Nat) : Flash := f.filter (fun x => x.1 / 60 ≠ sector)

/-- The canonical form of the flash: slot numbers strictly rising, none blank. -/
abbrev FlashWf (f : Flash) : Prop :=
  f.Pairwise (fun a b => a.1 < b.1) ∧ ∀ x ∈ f, x.2 ≠ .blank

/-- What one slot holds after an erase that left it so. -/
def leaveSlot (f : Flash) (k : Nat) : SlotLeft → Flash
  | .kept => f
  | .damaged => flashWrite f k .damaged
  | .blank => flashWrite f k .blank

/-- The slots of a sector from `slot` on, as an incomplete erase left them; a slot not listed is damaged. -/
def leaveSlots (f : Flash) (sector : Nat) (left : List SlotLeft) : Nat → Flash
  | 0 => f
  | n + 1 => leaveSlot (leaveSlots f sector left n) (slotNumber sector n) (left[n]?.getD .damaged)

/-- A sector whose erase failed its verify (R141, log entry 11). -/
def flashEraseFailed (f : Flash) (sector : Nat) (left : List SlotLeft) : Flash := leaveSlots f sector left 60

/-- A sector whose erase was cut short: its slot 0 holds no valid checkpoint (R139, log entry 11). -/
def flashEraseCut (f : Flash) (sector : Nat) (left : List SlotLeft) : Flash :=
  let g := leaveSlots f sector left 60
  if left[0]?.getD .damaged = .kept then flashWrite g (slotNumber sector 0) .damaged else g

/-- The flash operation in progress is cut short: a slot being written is damaged, or blank if no byte had yet been
programmed (R138), and a sector being erased is left as the cut says. -/
def cutOperation (cut : FlashCut) (s : State) : State :=
  match s.journal.op with
  | .none => s
  | .erase sector => { s with flash := flashEraseCut s.flash sector cut.eraseLeft }
  | .write _ | .head _ =>
    if cut.programmed then
      { s with flash := flashWrite s.flash (slotNumber s.journal.sector s.journal.nextSlot) .damaged }
    else s

/-! ## The core's power (R128, R118, R125) -/

/-- What becomes of the record when the core is reset: a programming cut off spoils it, at whatever byte it stood (R177,
log entry 43). -/
def Provisioning.coreReset (p : Provisioning) : Provisioning :=
  match p.phase with
  | .programming _ => { p with otp := .spoiled, phase := .idle, request := none }
  | _ => { p with phase := .idle, request := none }

/-- Every block of the core takes the values of a start, in the given power state; the queue of commands, the flash,
the record and the clock domain stay. -/
def resetCore (p : Power) (s : State) : State :=
  { s with
    provisioning := s.provisioning.coreReset
    account := .start
    tokens := .start
    digests := []
    meter := .start
    switches := { Switches.start with switching := p ≠ .off }
    supply := .start p
    journal := .start
    relay := .start
    link := .start (p ≠ .off) }

/-- The core goes off; what it held is lost (R125, R126, log entry 12). -/
def coreOff (s : State) : State := resetCore .off s

/-- The condition the record is judged to be in at a power-up of the core (R175). -/
def judgeRecord : Otp → RecordCondition
  | .blank => .blank
  | .written f check => if check = recordCheck f then .valid else .damaged
  | .spoiled => .damaged

/-- The core is powered: STARTING, every block at its start values, the record judged, the link receiving (R128, R175). -/
def corePowerUp (s : State) : State :=
  let s := resetCore .starting s
  { s with provisioning.condition := judgeRecord s.provisioning.otp }

/-- The core is restarted as at a power-up, the clock domain untouched (R131). A flash operation still in progress, which
R131 does not speak of, is left damaged (log entry 11). -/
def coreRestart (s : State) : State := corePowerUp (cutOperation ⟨true, []⟩ s)

/-! ## Replies (R169) -/

/-- Whether a frame of the transmit list is a reply. -/
def TxFrame.isReply : TxFrame → Bool
  | .reply _ => true
  | .notice _ => false

/-- The replies of the transmit list. -/
def Link.replyCount (l : Link) : Nat := (l.transmit.filter TxFrame.isReply).length

/-- The ring's bytes of a frame are released. -/
def Link.release (l : Link) (id : Nat) : Link := { l with held := l.held.filter (fun h => h.id ≠ id) }

/-- A completed reply joins the transmit list, its frame's bytes released, or the completed replies when the list holds
four (R169). -/
def Link.queueReply (l : Link) (r : Reply) : Link :=
  if l.replyCount < 4 then { l with transmit := l.transmit ++ [TxFrame.reply r] : Link }.release r.id
  else { l with completed := l.completed ++ [r] }

/-- A reply is complete: discarded when its request is in the cancelled set, queued otherwise (R169). In HOLDOVER the
link sends no further replies and its lists stand as they are (R124, R174, log entry 19). -/
def completeReply (r : Reply) (s : State) : State :=
  match s.supply.power with
  | .off | .holdover => s
  | _ =>
    let l := { s.link with handed := s.link.handed.filter (fun i => i ≠ r.id) }
    { s with
      link := if r.id ∈ l.cancelled then { l with cancelled := l.cancelled.filter (fun i => i ≠ r.id) }
        else l.queueReply r }

/-- A request is answered with a body. -/
def answer (req : Request) (body : List Byte) (s : State) : State :=
  completeReply ⟨req.id, req.tag, req.kind, body, false⟩ s

/-- A request is answered with a result alone. -/
def answerResult (req : Request) (r : ReplyResult) (s : State) : State := answer req [r.code] s

/-! ## The journal's write queue (R136, R137) -/

/-- The restart mark joins the last TALLY of a list; none when the list has no TALLY. -/
def mergeLast (restart : Bool) : List Queued → Option (List Queued)
  | [] => none
  | q :: rest =>
    match mergeLast restart rest with
    | some merged => some (q :: merged)
    | none =>
      match q with
      | .tally r => some (.tally (r || restart) :: rest)
      | _ => none

/-- A TALLY joins a list of entries whose write has not begun: merged into the last TALLY waiting, or at the tail
(R137, log entry 30). -/
def joinTally (restart : Bool) (waiting : List Queued) : List Queued :=
  (mergeLast restart waiting).getD (waiting ++ [.tally restart])

/-- Whether the oldest queued entry is being written. -/
def Journal.headBegun (j : Journal) : Bool :=
  match j.op with
  | .write _ => true
  | _ => false

/-- A TALLY is submitted, carrying a RESTART or not; a FAILED journal refuses it (R136). -/
def submitTally (restart : Bool) (s : State) : State :=
  if s.journal.failed then s
  else
    match s.journal.headBegun, s.journal.queue with
    | true, q :: rest => { s with journal.queue := q :: joinTally restart rest }
    | _, waiting => { s with journal.queue := joinTally restart waiting }

/-- Another entry joins the tail of the write queue; a FAILED journal refuses it (R136). -/
def submitEntry (q : Queued) (s : State) : State :=
  if s.journal.failed then s else { s with journal.queue := s.journal.queue ++ [q] }

/-! ## Digest requests (R68, R69) -/

/-- A request joins the digest unit's list; in HOLDOVER the unit takes none (R69). -/
def requestDigest (r : DigestRequest) (s : State) : State :=
  match s.supply.power with
  | .off | .holdover => s
  | _ => { s with digests := s.digests ++ [r] }

/-- The result of the digest in service, from the key and the fields of its request (R68). -/
def DigestRequest.result (r : DigestRequest) : Nat := Config.keyedDigest r.key r.fields

/-- The result truncated to 32 bits (R152). -/
def DigestRequest.envelope (r : DigestRequest) : BitVec 32 := BitVec.ofNat 32 r.result

end Sys2Proof.Machine
end

