-- ==== Sys2Proof/Machine/Account.lean ====
section
/-! DEFINITION. The Credit Account's arithmetic, each function from an account to an account: charges, tallies, catch-ups, day boundaries, token effects, caps and initial values (01, 02). -/

namespace Sys2Proof.Machine

/-! ## Charges (R10 to R12) -/

/-- Exhaustion of an ACTIVE account by a charge at or above its balance (R11). -/
def exhaust (t : Tariff) (charge : Nat) (a : Account) : Account :=
  let excess := charge - a.balance
  if a.graceArmed && decide (0 < t.graceDays) then
    if excess ≤ t.debtLimit then
      { a with
        state := .grace, balance := 0, debt := excess, graceBudget := t.graceDays * 1440,
        graceArmed := false, ht := a.ht + charge }
    else
      { a with
        state := .locked, balance := 0, debt := t.debtLimit, graceBudget := 0,
        ht := a.ht + a.balance + t.debtLimit }
  else
    { a with
      state := .locked, balance := 0, debt := min excess t.debtLimit, graceBudget := 0,
      ht := a.ht + a.balance + min excess t.debtLimit }

/-- A charge applied to an ACTIVE account (R10, R11). -/
def chargeActive (t : Tariff) (charge : Nat) (a : Account) : Account :=
  if charge < a.balance then { a with balance := a.balance - charge, ht := a.ht + charge }
  else exhaust t charge a

/-- A charge applied to an account in GRACE, with the minutes of grace it uses (R12, R15). -/
def chargeGrace (t : Tariff) (charge minutes : Nat) (a : Account) : Account :=
  let added := min charge (t.debtLimit - a.debt)
  let debt := a.debt + added
  let budget := a.graceBudget - minutes
  if budget = 0 ∨ t.debtLimit ≤ debt then
    { a with state := .locked, debt := debt, graceBudget := 0, ht := a.ht + added }
  else { a with debt := debt, graceBudget := budget, ht := a.ht + added }

/-- Whether a tally or catch-up from `before` to `after` raises LOW_CREDIT (R10, R25). -/
def lowersCredit (t : Tariff) (before after : Account) : Bool :=
  decide (before.state = .active) && decide (0 < t.standing) && decide (t.standing ≤ before.balance)
    && decide (after.balance < t.standing)

/-! ## The tally (R7 to R13) -/

/-- One port of the allowance stage: the chargeable energy, and the allowance left after it (R9). -/
def coverPort (price delta left : Nat) : Nat × Nat :=
  if price = 0 then (0, left) else (delta - min delta left, left - min delta left)

/-- The allowance stage, ports in port order: chargeable energies and allowance left (R9). -/
def allowanceStage (prices deltas : PerPort Nat) (left : Nat) : PerPort Nat × Nat :=
  let r0 := coverPort prices.p0 deltas.p0 left
  let r1 := coverPort prices.p1 deltas.p1 r0.2
  let r2 := coverPort prices.p2 deltas.p2 r1.2
  let r3 := coverPort prices.p3 deltas.p3 r2.2
  (⟨r0.1, r1.1, r2.1, r3.1⟩, r3.2)

/-- The sum over the ports of chargeable energy × price, in 10^−6 cu (R10). -/
def energyCost (prices chargeable : PerPort Nat) : Nat :=
  chargeable.p0 * prices.p0 + chargeable.p1 * prices.p1 + chargeable.p2 * prices.p2
    + chargeable.p3 * prices.p3

/-- The stages before application: the charge, and the account with rs, re, allowance left and marks moved on (R7 to R10). -/
def tallyStages (t : Tariff) (counts : PerPort Nat) (a : Account) : Nat × Account :=
  let rs := a.rs + t.standing
  let covered := allowanceStage t.prices (counts.zip (fun c m => c - m) a.marks) a.allowance
  let re := a.re + energyCost t.prices covered.1
  (rs / 96 + re / 1000000,
    { a with rs := rs % 96, re := re % 1000000, allowance := covered.2, marks := counts })

/-- The account after a tally for a tally point, with the metered counts the meter holds (R6 to R13). -/
def tallyAccount (t : Tariff) (counts : PerPort Nat) (point : ClockTime) (a : Account) : Account :=
  match a.state with
  | .unprovisioned => a
  | .locked | .paidOff => { a with marks := counts, lastTally := point }
  | .active =>
    let r := tallyStages t counts a
    { chargeActive t r.1 r.2 with lastTally := point }
  | .grace =>
    let r := tallyStages t counts a
    { chargeGrace t r.1 15 r.2 with lastTally := point }

/-! ## The day boundary (R32 to R36) -/

/-- Tariff activation: the staged tariff becomes active and a GRACE account whose debt exceeds the new limit is LOCKED
(R33, R34). -/
def activateTariff (f : Settings) (a : Account) : Account :=
  match a.stagedTariff with
  | none => a
  | some n =>
    let a := { a with activeTariff := n, stagedTariff := none }
    if a.state = .grace ∧ (tariffOf f n).debtLimit < a.debt then
      { a with state := .locked, graceBudget := 0 }
    else a

/-- The day boundary: activation, then renewal of the allowance (R32, R36). -/
def dayBoundary (f : Settings) (a : Account) : Account :=
  let a := activateTariff f a
  { a with allowance := (tariffOf f a.activeTariff).allowance }

/-! ## The catch-up (R15, R16) -/

/-- The charge of a catch-up for `n` intervals (R15). -/
def catchUpCharge (t : Tariff) (n : Nat) (a : Account) : Account :=
  let rs := a.rs + n * t.standing
  match a.state with
  | .active => chargeActive t (rs / 96) { a with rs := rs % 96 }
  | .grace => chargeGrace t (rs / 96) (15 * n) { a with rs := rs % 96 }
  | _ => a

/-- What a tally or catch-up, with the day boundary that follows it, makes of the account, and the notices it calls for
besides ACCOUNT_STATE. -/
structure Charged where
  acct : Account
  lowCredit : Bool
  tariffApplied : Bool
deriving DecidableEq, Repr

/-- A day boundary made after a charge when one is due, with its TARIFF_APPLIED (R33). -/
def withBoundary (f : Settings) (due : Bool) (c : Charged) : Charged :=
  if due then { c with acct := dayBoundary f c.acct, tariffApplied := c.acct.stagedTariff.isSome } else c

/-- A catch-up of `n` intervals to a clock time, under the tariff active when it starts (R15, R16, R29). -/
def catchUp (f : Settings) (n : Nat) (crossing : Bool) (upTo : ClockTime) (a : Account) : Charged :=
  let t := tariffOf f a.activeTariff
  let charged := catchUpCharge t n a
  withBoundary f crossing
    ⟨{ charged with lastTally := latestTallyPoint upTo }, lowersCredit t a charged, false⟩

/-- A tally for a tally point and the day boundary that follows it at minute 0 (R14, R32). -/
def tallyAndBoundary (f : Settings) (counts : PerPort Nat) (point : ClockTime) (a : Account) : Charged :=
  let t := tariffOf f a.activeTariff
  let charged := tallyAccount t counts point a
  withBoundary f (decide (point.minute = 0)) ⟨charged, lowersCredit t a charged, false⟩

/-! ## Token effects (R17 to R20, R30) -/

/-- A credit of `amount` cu: debt first, then the balance (R17), and the arming of R4. -/
def creditAccount (t : Tariff) (amount : Nat) (a : Account) : Account :=
  let repaid := min amount a.debt
  let balance := a.balance + (amount - repaid)
  let debt := a.debt - repaid
  let a := { a with balance := balance, debt := debt, ct := a.ct + amount }
  let a := if 0 < balance then { a with state := .active, graceBudget := 0 } else a
  if debt = 0 ∧ t.standing ≤ balance ∧ 0 < t.graceDays then { a with graceArmed := true } else a

/-- FORGIVE_DEBT of `amount` cu (R18). -/
def forgiveDebt (amount : Nat) (a : Account) : Account :=
  { a with debt := a.debt - min amount a.debt, ft := a.ft + min amount a.debt }

/-- PAYOFF (R18). -/
def payOff (a : Account) : Account :=
  { a with ft := a.ft + a.debt, debt := 0, state := .paidOff, graceBudget := 0 }

/-- RELOCK (R19). -/
def relock (t : Tariff) (a : Account) : Account :=
  { a with
    vt := a.vt + a.balance, ft := a.ft + a.debt, balance := 0, debt := 0, state := .locked,
    graceBudget := 0, stagedTariff := none, graceArmed := decide (0 < t.graceDays) }

/-- GRANT_GRACE of `days` days, where it is applicable (R20). -/
def grantGrace (days : Nat) (a : Account) : Account :=
  match a.state with
  | .locked => { a with state := .grace, graceBudget := days * 1440, graceArmed := false }
  | .grace => { a with graceBudget := min (a.graceBudget + days * 1440) 10080 }
  | _ => a

/-- SET_TARIFF of number `n` (R30). -/
def stageTariff (n : Nat) (a : Account) : Account :=
  if n = a.activeTariff then { a with stagedTariff := none } else { a with stagedTariff := some n }

/-! ## Caps (R24, Table 1-5) -/

/-- The caps of a set of ports at one duty. -/
def capsOn (set : PerPort Bool) (duty : Nat) : PerPort Nat := set.map (fun b => if b then duty else 0)

/-- The four account caps of an account under its active tariff. -/
def accountCaps (t : Tariff) (a : Account) : PerPort Nat :=
  match a.state with
  | .active => capsOn t.portSet 1000
  | .grace => capsOn t.gracePorts t.graceDuty
  | .paidOff => .same 1000
  | .locked | .unprovisioned => .same 0

/-! ## Initial values (R27) -/

/-- The initial tariff: the table entry at the initial tariff index (R28). -/
def initialTariff (f : Settings) : Tariff := (f.tariffs[f.initialIndex]?).getD .none

/-- The account that provisioning loads (R27). -/
def provisionedAccount (f : Settings) : Account :=
  { Account.unprovisioned with
    state := if 0 < f.initialCredit then .active else .locked
    balance := f.initialCredit
    graceArmed := decide (0 < (initialTariff f).graceDays)
    allowance := (initialTariff f).allowance
    activeTariff := (initialTariff f).number
    ct := f.initialCredit
    lastTally := latestTallyPoint f.initialTime }

/-- The account of a provisioned part whose replay finds no valid checkpoint (R27). -/
def unreplayedAccount (f : Settings) : Account :=
  { provisionedAccount f with state := .locked, balance := 0, ct := 0 }

/-! ## The days-remaining estimate (R40) -/

/-- floor(balance / S), absent when S = 0, in PAID_OFF and in UNPROVISIONED. -/
def daysRemaining (t : Tariff) (a : Account) : Option Nat :=
  if t.standing = 0 then none
  else match a.state with
    | .paidOff | .unprovisioned => none
    | _ => some (a.balance / t.standing)

end Sys2Proof.Machine
end

