-- ==== Sys2Proof/Machine/Ports.lean ====
section
/-! DEFINITION. The Port Switches: targets, the port states and the ramp, trips, and the caps and demands that reach them (06). -/

namespace Sys2Proof.Machine

/-! ## One port (R104, R107 to R109, R111 to R114, R116) -/

/-- The least of demand duty, account cap and shed cap when the demand is ON, and 0 when it is OFF (R104). -/
def Port.wanted (p : Port) : Nat := if p.demand then min p.demandDuty (min p.accountCap p.shedCap) else 0

/-- Entry into IDLE: duty 0, retry count 0, timers cleared (R107). -/
def Port.enterIdle (p : Port) : Port :=
  { p with state := .idle, duty := 0, retry := 0, stepTimer := 0, tripWait := 0, onRun := 0 }

/-- Entry into RAMPING from the duty the port has, the step timer at 100 ms (R109). -/
def Port.enterRamping (p : Port) : Port := { p with state := .ramping, stepTimer := 100 }

/-- Entry into BARRED: duty 0 at once, timers cleared (Table 6-4). -/
def Port.enterBarred (p : Port) : Port :=
  { p with state := .barred, duty := 0, stepTimer := 0, tripWait := 0, onRun := 0 }

/-- Entry into ON at a duty, on run 0 (Table 6-4, R109). -/
def Port.enterOn (duty : Nat) (p : Port) : Port :=
  { p with state := .on, duty := duty, stepTimer := 0, onRun := 0 }

/-- A port acts on its recorded target (Table 6-4). IDLE, TRIP_WAIT and LATCHED drive nothing (R104, R113). -/
def Port.actOnTarget (p : Port) : Port :=
  match p.state with
  | .barred => if p.target = 0 then p else { p with duty := 0 }.enterRamping
  | .ramping =>
    if p.target = 0 then p.enterBarred else if p.target ≤ p.duty then p.enterOn p.target else p
  | .on =>
    if p.target = 0 then p.enterBarred
    else if p.target < p.duty then { p with duty := p.target }
    else if p.duty < p.target then { p with onRun := 0 }.enterRamping
    else p
  | .idle | .tripWait | .latched => p

/-- The target is recomputed and the port acts on it; a target it already had has no effect (R104). -/
def Port.retarget (p : Port) : Port :=
  if p.wanted = p.target then p else { p with target := p.wanted }.actOnTarget

/-- A PORT request's demand and demand duty reach the port (R107, R113). -/
def Port.setDemand (on : Bool) (duty : Nat) (p : Port) : Port :=
  let q := { p with demand := on, demandDuty := duty }
  match p.state with
  | .idle =>
    let q := { q with target := q.wanted }
    if on then (if q.target = 0 then q.enterBarred else { q with duty := 0 }.enterRamping) else q
  | .barred | .ramping | .on =>
    if on then q.retarget else { q with target := q.wanted }.enterIdle
  | .tripWait => if on then q.retarget else { q with target := q.wanted }.enterIdle
  | .latched => q.retarget

/-- An account cap reaches the port (R105). -/
def Port.giveAccountCap (cap : Nat) (p : Port) : Port := { p with accountCap := cap }.retarget

/-- A shed level reaches a port of a given shed rank (R106). -/
def Port.giveShedLevel (level rank : Nat) (p : Port) : Port :=
  { p with shedCap := if rank ≤ level then 0 else 1000 }.retarget

/-- The step timer of a RAMPING port runs out (R109). The port is driven in this second (R110). -/
def Port.rampStep (p : Port) : Port :=
  match p.state with
  | .ramping =>
    let duty := p.duty + min 250 (p.target - p.duty)
    let q := { p with duty := duty, driven := p.driven || decide (0 < duty) }
    if duty = p.target then q.enterOn duty else { q with stepTimer := 100 }
  | _ => p

/-- Whether the port's comparator is armed (R111). -/
def Port.armed (p : Port) : Bool := p.state = .ramping || p.state = .on

/-- The port trips (R111). -/
def Port.trip (p : Port) : Port :=
  let q := { p with duty := 0, stepTimer := 0, onRun := 0 }
  if p.retry < 3 then { q with retry := p.retry + 1, state := .tripWait, tripWait := 5000 }
  else { q with state := .latched }

/-- The trip wait of a port in TRIP_WAIT runs out (R112). -/
def Port.tripWaitEnd (p : Port) : Port :=
  match p.state with
  | .tripWait =>
    if p.target = 0 then p.enterBarred else { p with duty := 0, tripWait := 0 }.enterRamping
  | _ => p

/-- The on run of a port in ON reaches 10,000 ms (R114). -/
def Port.onRunComplete (p : Port) : Port :=
  match p.state with
  | .on => { p with retry := 0, onRun := 10000 }
  | _ => p

/-- UNLATCH reaches the port (R116). -/
def Port.unlatch (p : Port) : Port :=
  match p.state with
  | .latched =>
    if p.demand then { p with retry := 0 }.enterBarred.actOnTarget else p.enterIdle
  | _ => p

/-- The driven answer for a new second (R110). -/
def Port.newSecond (p : Port) : Port := { p with driven := decide (0 < p.duty) }

/-- The port when holdover begins: its duty is 0 and its answer no; the rest of its record stands (R118). -/
def Port.stop (p : Port) : Port := { p with duty := 0, driven := false }

/-- A millisecond passes for the timers a port keeps in its state. A timer stands one short of its end until the
command that ends it (log entries 5 and 6). -/
def Port.tick (p : Port) : Port :=
  match p.state with
  | .ramping => { p with stepTimer := if 1 < p.stepTimer then p.stepTimer - 1 else p.stepTimer }
  | .tripWait => { p with tripWait := if 1 < p.tripWait then p.tripWait - 1 else p.tripWait }
  | .on => { p with onRun := if p.onRun < 9999 then p.onRun + 1 else p.onRun }
  | _ => p

/-! ## The block -/

/-- What one port becomes, while the block is switching (R118). -/
def onPort (i : Fin 4) (f : Port → Port) (s : State) : State :=
  if s.switches.switching then
    { s with switches.ports := s.switches.ports.set i (f (s.switches.ports.get i)) }
  else s

/-- What each port becomes, while the block is switching (R118). -/
def onPorts (f : Port → Port) (s : State) : State :=
  if s.switches.switching then { s with switches.ports := s.switches.ports.map f } else s

/-- The account gives its four caps (R24, R105). -/
def giveCaps (s : State) : State :=
  let caps := accountCaps (tariffOf s.provisioning.settings s.account.acct.activeTariff) s.account.acct
  if s.switches.switching then
    { s with switches.ports := caps.zip Port.giveAccountCap s.switches.ports }
  else s

/-- The Supply Monitor gives its shed level (R106). -/
def giveShedLevel (s : State) : State :=
  if s.switches.switching then
    { s with
      switches.ports := s.provisioning.settings.shedRanks.zip
        (fun rank p => p.giveShedLevel s.supply.shedLevel rank) s.switches.ports }
  else s

/-- A port's current reaches its comparator (R111, R117). The comparator is armed in RAMPING and ON, and the port trips
when the current exceeds its limit. -/
def tripPort (i : Fin 4) (current : Nat) (s : State) : State :=
  let p := s.switches.ports.get i
  if s.switches.switching && p.armed && decide (s.provisioning.settings.currentLimits.get i < current) then
    raiseIf (decide (3 ≤ p.retry)) .portLatched (raise .portTrip (onPort i Port.trip s))
  else s

end Sys2Proof.Machine
end

