-- ==== Sys2Proof/Machine/Meter.lean ====
section
/-! DEFINITION. The Port Meter: conditioning, accumulation, sense judgement, the sample of one second, and the restoring of the counts (05). -/

namespace Sys2Proof.Machine

/-- A port's current reading from its average (R92). -/
def conditionCurrent (average : Nat) : Nat :=
  if 8000 < average then 8000 else if average < 20 then 0 else average

/-- The battery reading from its average: held at 20,000 mV (R93, R120). -/
def batteryReading (average : Nat) : Nat := min average 20000

/-- The top of a metered count, 2^32 − 1 mWh (R95). -/
def countTop : Nat := 4294967295

/-- One second's product, in µJ, joins a port's residue and count (R94). A count that would rise above the top is held
there with residue 0, and a held count stays as it is (R95, log entry 20). -/
def MeterPort.accumulate (product : Nat) (m : MeterPort) : MeterPort :=
  if m.count = countTop ∧ m.residue = 0 then m
  else
    let sum := m.residue + product
    if countTop < m.count + sum / 3600000 then { m with count := countTop, residue := 0 }
    else { m with count := m.count + sum / 3600000, residue := sum % 3600000 }

/-- Whether a sample is suspect: 100 mA or more, and the output at 0 throughout the second (R99). -/
def suspect (reading : Nat) (driven : Bool) : Bool := decide (100 ≤ reading) && !driven

/-- The sense judgement of one sample (Table 5-5). -/
def MeterPort.judge (reading : Nat) (driven : Bool) (m : MeterPort) : MeterPort :=
  match m.sense with
  | .clear =>
    if suspect reading driven then
      if m.senseRun < 2 then { m with senseRun := m.senseRun + 1 } else { m with sense := .fault, senseRun := 0 }
    else { m with senseRun := 0 }
  | .fault =>
    if 100 ≤ reading then { m with senseRun := 0 } else { m with sense := .clear, senseRun := 0 }

/-- One port's part of a sample: accumulation, last current, judgement (R91). -/
def MeterPort.sample (voltage average : Nat) (driven : Bool) (m : MeterPort) : MeterPort :=
  let reading := conditionCurrent average
  { (m.accumulate (voltage * reading)).judge reading driven with lastCurrent := reading }

/-- Whether a sample takes a port into FAULT (R99). -/
def entersFault (before after : MeterPort) : Bool := before.sense = .clear && after.sense = .fault

/-- The Port Meter's sample at a second event (R91). With sampling no, nothing is sampled. -/
def takeSample (battery : Nat) (currents : PerPort Nat) (s : State) : State :=
  if s.meter.sampling then
    let voltage := batteryReading battery
    let driven := s.switches.ports.map Port.driven
    let after := (currents.zip (fun c d => (c, d)) driven).zip
      (fun x m => m.sample voltage x.1 x.2) s.meter.ports
    let faults := s.meter.ports.zip entersFault after
    raiseIf (faults.p0 || faults.p1 || faults.p2 || faults.p3) .senseFault
      { s with meter.ports := after, meter.lastVoltage := voltage }
  else s

/-- The driven answers are handed over and set for the new second (R110). -/
def reportDriven (s : State) : State := onPorts Port.newSecond s

/-- The metered counts. -/
def Meter.counts (m : Meter) : PerPort Nat := m.ports.map MeterPort.count

/-- The counts are restored from the account's marks; everything else begins afresh (R102). -/
def restoreMeter (s : State) : State :=
  { s with
    meter.ports := s.account.acct.marks.map (fun mark => { MeterPort.start with count := mark })
    meter.lastVoltage := 0 }

/-- Provisioning sets the counts and residues to 0 and leaves the rest (R103). -/
def zeroMeter (s : State) : State :=
  { s with meter.ports := s.meter.ports.map (fun m => { m with count := 0, residue := 0 }) }

/-- Untallied energy: count less mark (R97). -/
def untallied (counts marks : PerPort Nat) : PerPort Nat := counts.zip (fun c m => c - m) marks

end Sys2Proof.Machine
end

