-- ==== Sys2Proof/Machine/Clock.lean ====
section
/-! DEFINITION. The Day Clock and the penalty state: counting, sources, the anchor computed and made (04, 3.6). -/

namespace Sys2Proof.Machine

/-! ## Counting (R73, R74, R75) -/

/-- What a minute arrival makes of the clock (R74). -/
def DayClock.minuteArrival (c : DayClock) : DayClock :=
  if !c.timeSet then c
  else if 0 < c.hold then { c with hold := c.hold - 1 }
  else if c.day = 65535 ∧ c.minute = 1439 then c
  else if c.minute = 1439 then { c with day := c.day + 1, minute := 0 }
  else { c with minute := c.minute + 1 }

/-- Whether a minute arrival changes the minute. -/
def DayClock.advances (c : DayClock) : Bool :=
  c.timeSet && decide (c.hold = 0) && !(decide (c.day = 65535) && decide (c.minute = 1439))

/-- The tally point a minute arrival raises: the new time, when the minute has risen to a multiple of 15 (R74). -/
def DayClock.tallyPointRaised (c : DayClock) : Option ClockTime :=
  if c.advances && decide (c.minuteArrival.minute % 15 = 0) then some c.minuteArrival.time else none

/-- Whether a minute arrival raises a day change (R74). -/
def DayClock.dayChangeRaised (c : DayClock) : Bool := c.advances && decide (c.minute = 1439)

/-- A day change raises the anchor age, held at 65,535 (R80). -/
def DayClock.dayChange (c : DayClock) : DayClock := { c with anchorAge := min (c.anchorAge + 1) 65535 }

/-! ## Anchors (R81 to R85) -/

/-- The intervals a forward anchor charges: the tally points of the gap held at C × 96, or 0 in SERVICE mode (R37). -/
def anchorIntervals (t : Tariff) (now target : ClockTime) : Nat :=
  match t.mode with
  | .service => 0
  | .calendar => min (tallyPoints now target) (t.catchUpCap * 96)

/-- The anchor by issue day (R83). -/
def issueAnchor (t : Tariff) (now : ClockTime) (issueDay : Nat) : AnchorOutcome :=
  if now.day < issueDay then
    .move ⟨issueDay, 0⟩ (anchorIntervals t now ⟨issueDay, 0⟩) true
  else if now.day ≤ issueDay + 1 then .confirm
  else .none

/-- The anchor of a SET_TIME to a target (R84). -/
def setTimeAnchor (t : Tariff) (now target : ClockTime) : AnchorOutcome :=
  if target.laterThan now then .move target (anchorIntervals t now target) (decide (now.day < target.day))
  else if now.laterThan target then .hold target
  else .confirm

/-- The clock after a SET_TIME or issue-day anchor that clears the condition and the anchor age (R79, R80). -/
def DayClock.anchored (c : DayClock) : DayClock := { c with condition := .running, anchorAge := 0 }

/-- The anchor made at the commit, against the clock as it then stands (R85). -/
def DayClock.makeAnchor (setTime : Bool) (o : AnchorOutcome) (c : DayClock) : DayClock :=
  match o with
  | .none => c
  | .confirm => if setTime then { c.anchored with hold := 0 } else c.anchored
  | .hold t => { c.anchored with hold := min (c.time.count - t.count) 1440 }
  | .move t _ _ =>
    if t.laterThan c.time then
      { c.anchored with day := t.day, minute := t.minute, second := 0, hold := 0 }
    else { c.anchored with hold := 0 }

/-- The day a made anchor hands to the Relay Store as a day change: T's day, when a crossing MOVE moves the clock (R85). -/
def DayClock.anchorDayChange (o : AnchorOutcome) (c : DayClock) : Option Nat :=
  match o with
  | .move t _ crossing => if crossing && t.laterThan c.time then some t.day else none
  | _ => none

/-! ## Setting the clock (R88, R90) -/

/-- Provisioning sets the clock; source and qualification are left (R88). -/
def DayClock.provision (t : ClockTime) (c : DayClock) : DayClock :=
  { c with
    day := t.day, minute := t.minute, second := 0, timeSet := true, condition := .running, hold := 0,
    anchorAge := 0 }

/-- A cold start sets the clock, LOST; source and qualification go on as R77 gives (R90, log entry 26). -/
def DayClock.coldStart (t : ClockTime) (c : DayClock) : DayClock :=
  { c with
    day := t.day, minute := t.minute, second := 0, timeSet := true, condition := .lost, hold := 0,
    anchorAge := 0 }

/-! ## Issue-day resolution (R55, R56) -/

/-- The day congruent to the field modulo 1024 in the window of the clock's condition (R55). -/
def resolveIssueDay (c : DayClock) (field : Nat) : Int :=
  let low : Int := match c.condition with
    | .running => (c.day : Int) - 1015
    | .lost => (c.day : Int) - 511
  low + ((field : Int) - low) % 1024

/-- Whether a resolved issue day is EXPIRED: outside 0..65,535 (R55), or while RUNNING below D less the accept age (R56). -/
def issueExpired (c : DayClock) (acceptAge : Nat) (issue : Int) : Bool :=
  decide (issue < 0) || decide (65535 < issue)
    || (decide (c.condition = .running) && decide (issue < (c.day : Int) - (acceptAge : Int)))

/-! ## The penalty (R66, R67) -/

/-- A keypad BAD_CHECK (R66, Table 3-5). -/
def Penalty.advance (p : Penalty) : Penalty :=
  let count := min (p.count + 1) 65535
  if count < 5 then { p with count := count }
  else
    let wait := if count = 5 then 1 else min (2 * p.waitLength) 64
    ⟨count, wait, wait * 60⟩

/-- A second of the time base passes for the wait (R67). -/
def Penalty.second (p : Penalty) : Penalty := { p with waitRemaining := p.waitRemaining - 1 }

/-- No penalty: after an ACCEPTED token and after provisioning (R66, R67). -/
def Penalty.zero : Penalty := ⟨0, 0, 0⟩

/-! ## The crystal (R77, R78) -/

/-- Crystal qualification reaches 1,000 ms while the source is RC (R77). -/
def crystalQualify (s : State) : State :=
  if s.domain.powered && decide (s.domain.clock.source = .rc) then
    raise .clockSource
      { s with domain.clock.source := .crystal, domain.clock.qualification := 0, domain.crystalGap := 0 }
  else s

/-- 4 ms without a crystal edge while the source is CRYSTAL (R78). -/
def crystalFail (s : State) : State :=
  if s.domain.powered && decide (s.domain.clock.source = .crystal) then
    raise .clockSource
      { s with domain.clock.source := .rc, domain.clock.qualification := 0, domain.crystalGap := 4 }
  else s

/-- 4 ms without a crystal edge while the source is RC (R77). -/
def qualificationReset (s : State) : State :=
  if s.domain.powered && decide (s.domain.clock.source = .rc) then
    { s with domain.clock.qualification := 0, domain.crystalGap := 4 }
  else s

/-- The milliseconds since the last crystal edge after one more, in which an edge arrives or not. -/
def gapAfter (edge : Bool) (gap : Nat) : Nat := if edge then 0 else min (gap + 1) 4

/-- The qualification after a millisecond on RC: 0 once 4 ms have passed without an edge, and otherwise one more, which
stands one short of 1,000 until CRYSTAL_QUALIFIED (R77; log entries 5 and 6). -/
def qualificationAfter (gap qualification : Nat) : Nat := if gap < 4 then min (qualification + 1) 999 else 0

/-- A millisecond passes for the clock domain's watch on the crystal (R77, R78). On CRYSTAL the gap stands one short of
4 ms until CRYSTAL_GAP (log entry 5). -/
def ClockDomain.tick (edge : Bool) (d : ClockDomain) : ClockDomain :=
  let gap := gapAfter edge d.crystalGap
  match d.clock.source with
  | .rc => { d with clock.qualification := qualificationAfter gap d.clock.qualification, crystalGap := gap }
  | .crystal => { d with crystalGap := min gap 3 }

/-! ## The backup cell (R122) -/

/-- The backup reading from its measurement, 0..5,000 mV. -/
def backupReadingOf (measured : Nat) : Nat := min measured 5000

/-- The backup state after a reading. -/
def nextBackupState (reading : Nat) (b : BackupState) : BackupState :=
  if reading < 2400 then .weak else if 2500 ≤ reading then .good else b

/-- The backup measurement of a second; BACKUP_WEAK is raised when the state becomes WEAK with the core powered (R122). -/
def measureBackup (measured : Nat) (s : State) : State :=
  let reading := backupReadingOf measured
  let next := nextBackupState reading s.domain.backup
  raiseIf (decide (s.domain.backup = .good) && decide (next = .weak)) .backupWeak
    { s with domain.backupReading := reading, domain.backup := next }

end Sys2Proof.Machine
end

