-- ==== Sys2Proof/Machine/Relay.lean ====
section
/-! DEFINITION. The Relay Store's two lists: receipts added, records stored, merged, evicted and handed out, and the sweep (09). -/

namespace Sys2Proof.Machine

/-- Whether a record and a kit and serial match (Section 9.1). -/
def RelayRecord.isFor (kit serial : Nat) (r : RelayRecord) : Bool :=
  decide (r.destination = kit) && decide (tokenSerial r.token = serial)

/-- Whether a receipt is for a kit and serial. -/
def Receipt.isFor (kit serial : Nat) (r : Receipt) : Bool :=
  decide (r.kit = kit) && decide (r.serial = serial)

/-! ## Receipts (R153) -/

/-- The lowest created day of a list of receipts. -/
def lowestDay : List Receipt → Option Nat
  | [] => none
  | r :: rest =>
    match lowestDay rest with
    | none => some r.created
    | some d => some (min r.created d)

/-- The list without the first receipt of a created day. -/
def evictDay (day : Nat) : List Receipt → List Receipt
  | [] => []
  | r :: rest => if r.created = day then rest else r :: evictDay day rest

/-- A receipt joins the list: dropped when one of its kit and serial is held, and, when the list holds 32, after the
oldest of the lowest created day is evicted (R153). -/
def addReceipt (r : Receipt) (list : List Receipt) : List Receipt :=
  if list.any (Receipt.isFor r.kit r.serial) then list
  else if list.length < 32 then list ++ [r]
  else
    match lowestDay list with
    | none => list ++ [r]
    | some d => evictDay d list ++ [r]

/-! ## Records (R156, R157) -/

/-- Whether record `a` is the victim before `b`, where `a` is the older: the highest hop count, then the highest offer
count, then the oldest (R157). -/
def RelayRecord.goesBefore (a b : RelayRecord) : Bool :=
  decide (b.hop < a.hop) || (decide (a.hop = b.hop) && decide (b.offers ≤ a.offers))

/-- The victim of a list, in arrival order (R157). -/
def victim : List RelayRecord → Option RelayRecord
  | [] => none
  | r :: rest =>
    match victim rest with
    | none => some r
    | some v => some (if r.goesBefore v then r else v)

/-- The list without the record of a destination and serial. -/
def removeRecord (destination serial : Nat) (list : List RelayRecord) : List RelayRecord :=
  list.filter (fun r => !r.isFor destination serial)

/-- The held record of a destination and serial takes the lesser hop count (R157). -/
def mergeHop (destination serial hop : Nat) (list : List RelayRecord) : List RelayRecord :=
  list.map (fun r => if r.isFor destination serial then { r with hop := min r.hop hop } else r)

/-- The held record of a destination and serial takes a renewed envelope (R156). -/
def renewEnvelope (destination serial : Nat) (env : BitVec 32) (list : List RelayRecord) : List RelayRecord :=
  list.map (fun r => if r.isFor destination serial then { r with envelope := env } else r)

/-! ## The sweep (R161) -/

/-- A day change removes the records whose expiry day, and the receipts whose created day plus 14, lie below the new
day (R161). -/
def RelayStore.sweep (day : Nat) (x : RelayStore) : RelayStore :=
  { x with
    records := x.records.filter (fun r => decide (day ≤ r.expiryDay))
    receipts := x.receipts.filter (fun r => decide (day ≤ r.created + 14)) }

/-! ## Handing out (R159, R160) -/

/-- A record put among others in ascending order of offer count, after those of equal count (R159). -/
def insertByOffers (r : RelayRecord) : List RelayRecord → List RelayRecord
  | [] => [r]
  | x :: rest => if r.offers < x.offers then r :: x :: rest else x :: insertByOffers r rest

/-- Records in ascending order of offer count, in arrival order among equals (R159). -/
def sortByOffers (list : List RelayRecord) : List RelayRecord :=
  list.foldl (fun acc r => insertByOffers r acc) []

/-- The records a HANDOFF hands out, at most `k`: first those for the neighbour, then the others (R159). -/
def handoffList (neighbour : Option Nat) (k : Nat) (list : List RelayRecord) : List RelayRecord :=
  let first := match neighbour with
    | none => []
    | some n => list.filter (fun r => decide (r.destination = n))
  let others := match neighbour with
    | none => list
    | some n => list.filter (fun r => decide (r.destination ≠ n))
  (first ++ sortByOffers others).take k

/-- The copy of a record that a HANDOFF hands out (R159). -/
def RelayRecord.copy (r : RelayRecord) : RelayItem :=
  .token r.destination r.token r.issueDay r.expiryDay (r.hop + 1) r.envelope

/-- The records after a HANDOFF: the offer counts of those handed out raised, and those that would reach 6 removed (R159). -/
def afterHandoff (out : List RelayRecord) (list : List RelayRecord) : List RelayRecord :=
  list.filterMap (fun r =>
    if out.any (RelayRecord.isFor r.destination (tokenSerial r.token)) then
      if r.offers + 1 < 6 then some { r with offers := r.offers + 1 } else none
    else some r)

/-- The copy of a receipt that a RECEIPTS hands out (R160). -/
def Receipt.copy (r : Receipt) : RelayItem := .receipt r.kit r.serial r.created r.envelope

/-- The receipts after the first `k` are handed out: hand counts raised, and those that would reach 3 removed (R160). -/
def afterReceipts (k : Nat) (list : List Receipt) : List Receipt :=
  (list.take k).filterMap (fun r => if r.hands + 1 < 3 then some { r with hands := r.hands + 1 } else none)
    ++ list.drop k

end Sys2Proof.Machine
end

