-- ==== Sys2Proof/Machine/Tally.lean ====
section
/-! DEFINITION. The account's tally, as an event of the part: its caps, its notices, its journal entry, and the pending tally point (R6, R14, R21, R22, R24, R25). -/

namespace Sys2Proof.Machine

/-- The account takes new values; its caps are given and its notices raised (R24, R25, R33). -/
def takeCharged (c : Charged) (s : State) : State :=
  let before := s.account.acct.state
  raiseIf c.tariffApplied .tariffApplied
    (raiseIf c.lowCredit .lowCredit
      (raiseIf (decide (before ≠ c.acct.state)) .accountState
        (giveCaps { s with account.acct := c.acct })))

/-- A tally is performed for a tally point, with its TALLY entry on the hour and its day boundary at minute 0 (R6, R14).
The entry's snapshot is taken when its write begins, which is after the boundary (R32). -/
def performTally (point : ClockTime) (s : State) : State :=
  let s := takeCharged
    (tallyAndBoundary s.provisioning.settings s.meter.counts point s.account.acct) s
  if point.minute % 60 = 0 then submitTally false s else s

/-- A tally point reaches the account (R6): performed, recorded as pending while pinned, or not taken. -/
def takeTallyPoint (point : ClockTime) (s : State) : State :=
  if s.supply.power = .run ∧ s.account.acct.state ≠ .unprovisioned then
    if s.account.pinned then { s with account.pendingTally := some point } else performTally point s
  else s

/-- The pin is released. A pending tally point later than the time of last tally is performed, in RUN; otherwise it is
discarded (R22, R62). -/
def releasePin (s : State) : State :=
  let t := { s with account.pinned := false, account.pendingTally := none }
  match s.account.pendingTally with
  | none => t
  | some point =>
    if s.supply.power = .run ∧ point.laterThan s.account.acct.lastTally = true then performTally point t else t

end Sys2Proof.Machine
end

