-- ==== Sys2Proof/Machine/Tokens.lean ====
section
/-! DEFINITION. The Token Unit: intake, the order of checks, the evaluation, commit and drop (03). -/

namespace Sys2Proof.Machine

/-! ## Kinds and values (R46, Table 3-2) -/

/-- The eight token kinds. -/
inductive TokenKind where
  | addCredit
  | addDays
  | setTariff
  | payOff
  | relock
  | setTime
  | grantGrace
  | forgiveDebt
deriving DecidableEq, Repr

/-- The kind of a kind code; none for 0 and 9..15 (R52). -/
def tokenKindOf (code : Nat) : Option TokenKind :=
  match code with
  | 1 => some .addCredit
  | 2 => some .addDays
  | 3 => some .setTariff
  | 4 => some .payOff
  | 5 => some .relock
  | 6 => some .setTime
  | 7 => some .grantGrace
  | 8 => some .forgiveDebt
  | _ => none

/-- The amount m × 10^e of a value field: e its two high bits, m its twelve low bits (R46). -/
def amountOf (value : Nat) : Nat := (value % 4096) * 10 ^ (value / 4096)

/-- Whether a value lies in its kind's valid range (Table 3-2, R46). -/
def valueValid (k : TokenKind) (value : Nat) : Bool :=
  match k with
  | .addCredit | .forgiveDebt => decide (1 ≤ value % 4096)
  | .addDays | .setTariff => decide (1 ≤ value)
  | .payOff | .relock => decide (value = 0)
  | .setTime => decide (value ≤ 1439)
  | .grantGrace => decide (1 ≤ value ∧ value ≤ 7)

/-! ## The replay window (R53, R54) -/

/-- What the replay window says of a serial. -/
inductive WindowVerdict where
  | new
  | duplicate
  | tooOld
deriving DecidableEq, Repr

/-- The test of a serial against the window (R53). -/
def Window.verdict (s : Nat) (w : Window) : WindowVerdict :=
  if w.high < s then .new
  else if s = w.high ∨ s ∈ w.marks then .duplicate
  else if w.high ≤ s + 31 then .new
  else .tooOld

/-- A serial put in its place in a rising list, once. -/
def insertMark (s : Nat) : List Nat → List Nat
  | [] => [s]
  | x :: rest => if s < x then s :: x :: rest else if s = x then x :: rest else x :: insertMark s rest

/-- The marking of a serial at a commit (R54). -/
def Window.mark (s : Nat) (w : Window) : Window :=
  if w.high < s then
    let old := if w.high = 0 then w.marks else insertMark w.high w.marks
    ⟨s, old.filter (fun m => decide (s ≤ m + 31))⟩
  else if s < w.high then { w with marks := insertMark s w.marks }
  else w

/-! ## The evaluation (R55 to R60) -/

/-- The applicability tests on the working copy (Table 3-4). -/
def applicable (f : Settings) (k : TokenKind) (value : Nat) (a : Account) : Bool :=
  let t := tariffOf f a.activeTariff
  match k with
  | .addCredit => decide (a.state ≠ .paidOff)
  | .addDays => decide (a.state ≠ .paidOff) && decide (t.standing ≠ 0)
  | .setTariff => decide (a.state ≠ .paidOff) && hasTariff f value
  | .payOff | .relock | .setTime => true
  | .grantGrace => decide (a.state = .grace) || (decide (a.state = .locked) && decide (a.debt < t.debtLimit))
  | .forgiveDebt => decide (a.state ≠ .paidOff) && decide (a.debt ≠ 0)

/-- The credit a token of a kind and value brings the working copy, in cu; none for a kind that is no credit (R41). -/
def creditOf (f : Settings) (k : TokenKind) (value : Nat) (a : Account) : Option Nat :=
  match k with
  | .addCredit => some (amountOf value)
  | .addDays => some (value * (tariffOf f a.activeTariff).standing)
  | _ => none

/-- Whether a credit takes the balance above 9,999,999 cu, debt repaid first (R59). -/
def overflows (credit : Nat) (a : Account) : Bool := decide (9999999 < a.balance + (credit - min credit a.debt))

/-- The token's effect on the working copy (Table 3-2). SET_TIME acts on the clock alone. -/
def applyToken (f : Settings) (k : TokenKind) (value : Nat) (a : Account) : Account :=
  let t := tariffOf f a.activeTariff
  match k with
  | .addCredit => creditAccount t (amountOf value) a
  | .addDays => creditAccount t (value * t.standing) a
  | .setTariff => stageTariff value a
  | .payOff => payOff a
  | .relock => relock t a
  | .setTime => a
  | .grantGrace => grantGrace value a
  | .forgiveDebt => forgiveDebt (amountOf value) a

/-- The anchor the clock would make for a token (R57, R82). -/
def anchorFor (t : Tariff) (now : ClockTime) (k : TokenKind) (issueDay value : Nat) : AnchorOutcome :=
  match k with
  | .setTime => setTimeAnchor t now ⟨issueDay, value⟩
  | _ => issueAnchor t now issueDay

/-- The working copy after the anchor's catch-up (R57, R82). -/
def workingCopy (f : Settings) (o : AnchorOutcome) (a : Account) : Charged :=
  match o with
  | .move target n crossing => catchUp f n crossing target a
  | _ => ⟨a, false, false⟩

/-- The time a TOKEN entry carries: T for a MOVE, the clock time at the evaluation otherwise (Table 8-2). -/
def entryTime (o : AnchorOutcome) (now : ClockTime) : ClockTime :=
  match o with
  | .move target _ _ => target
  | _ => now

/-- The evaluation of a genuine token of a defined kind that is new: a refusal, or the TOKEN entry to submit (R55 to R60). -/
def evaluate (f : Settings) (clock : DayClock) (journalFailed : Bool) (a : Account) (k : TokenKind) (n : BitVec 66) :
    Except TokenResult TokenEntry :=
  let issue := resolveIssueDay clock (tokenDayField n)
  let value := tokenValue n
  if issueExpired clock f.acceptAge issue then .error .expired
  else if !valueValid k value then .error .badFormat
  else
    let outcome := anchorFor (tariffOf f a.activeTariff) clock.time k issue.toNat value
    let w := workingCopy f outcome a
    if !applicable f k value w.acct then .error .notApplicable
    else if (creditOf f k value w.acct).any (fun c => overflows c w.acct) then .error .wouldOverflow
    else if journalFailed then .error .notDurable
    else
      .ok {
        body := ⟨tokenKind n, tokenSerial n, value, issue.toNat, outcome⟩
        time := entryTime outcome clock.time
        snapshot := applyToken f k value w.acct
        lowCredit := w.lowCredit
        tariffApplied := w.tariffApplied }

/-! ## Intake and settling (R47, R48, R63, R64) -/

/-- The body of an ENTER_TOKEN reply: result, kind, serial, and what the result adds (R181). -/
def tokenReply (r : TokenResult) (kind serial : Nat) (extra : List Byte) : List Byte :=
  r.code :: (natBytes 1 kind ++ natBytes 2 serial ++ extra)

/-- Whether the intake queue takes another entry (R47). -/
def TokenUnit.hasRoom (u : TokenUnit) : Bool := u.intake.length < 4

/-- An entry joins the tail of the intake queue (R47). -/
def joinIntake (e : IntakeEntry) (s : State) : State :=
  { s with tokens.intake := s.tokens.intake ++ [e] }

/-- The entry in service is settled with a result: it leaves the queue, the unit is IDLE, and the result is delivered,
as a reply on the keypad path (R63) and as the last relay result with TOKEN_DONE on the relay path (R64). -/
def settleToken (r : TokenResult) (extra : List Byte) (s : State) : State :=
  match s.tokens.intake with
  | [] => s
  | e :: rest =>
    let t := { s with tokens.intake := rest, tokens.service := .idle }
    match e.source with
    | .keypad req => answer req (tokenReply r (tokenKind e.token) (tokenSerial e.token) extra) t
    | .relay =>
      raise .tokenDone
        { t with tokens.lastRelay := some ⟨tokenKind e.token, tokenSerial e.token, r⟩ }

/-- An own receipt's envelope is requested for a serial, created on the clock's day (R65). -/
def requestReceipt (serial : Nat) (s : State) : State :=
  let f := s.provisioning.settings
  let day := s.domain.clock.day
  requestDigest ⟨.ownReceipt serial day, f.districtKey, [f.kitNumber, serial, day]⟩ s

/-- The check digest of a token (Table 3-6). -/
def checkRequest (f : Settings) (n : BitVec 66) : DigestRequest :=
  ⟨.tokenCheck, f.kitKey, [f.kitNumber, tokenKind n, tokenSerial n, tokenDayField n, tokenValue n]⟩

/-- What a service start makes of an entry: a refusal with its reply's addition, or the check digest (R50). -/
def serviceStart (p : Penalty) (e : IntakeEntry) : Option (TokenResult × List Byte) :=
  if tokenSerial e.token = 0 then some (.badFormat, [])
  else
    match e.source with
    | .keypad _ => if 0 < p.waitRemaining then some (.penaltyWait, natBytes 2 p.waitRemaining) else none
    | .relay => none

/-- While the unit is IDLE in RUN with an entry waiting, the oldest is taken into service (R48, R50). `n` bounds the
entries taken; the queue's length is enough. -/
def serveTokens : Nat → State → State
  | 0, s => s
  | n + 1, s =>
    if s.supply.power = .run ∧ s.tokens.service = .idle then
      match s.tokens.intake with
      | [] => s
      | e :: _ =>
        match serviceStart s.domain.penalty e with
        | some (r, extra) => serveTokens n (settleToken r extra s)
        | none =>
          requestDigest (checkRequest s.provisioning.settings e.token)
            { s with tokens.service := .awaitDigest }
    else s

/-! ## Digest completion (R51 to R54) -/

/-- A keypad BAD_CHECK advances the penalty; a relay one does not (R51, R66). -/
def advancePenalty (src : TokenSource) (s : State) : State :=
  match src with
  | .keypad _ => { s with domain.penalty := s.domain.penalty.advance }
  | .relay => s

/-- A TOKEN entry is submitted: the account is pinned and the unit is IN_FLIGHT (R21, R60). -/
def submitToken (t : TokenEntry) (s : State) : State :=
  submitEntry (.token t)
    { s with account.pinned := true, tokens.service := .inFlight }

/-- The checks from a completed check digest on, in the order of R49. -/
def checkToken (e : IntakeEntry) (genuine : Bool) (s : State) : State :=
  if !genuine then settleToken .badCheck [] (advancePenalty e.source s)
  else
    match tokenKindOf (tokenKind e.token) with
    | none => settleToken .unknownKind [] s
    | some k =>
      match s.tokens.window.verdict (tokenSerial e.token) with
      | .duplicate => requestReceipt (tokenSerial e.token) (settleToken .duplicate [] s)
      | .tooOld => settleToken .serialTooOld [] s
      | .new =>
        match evaluate s.provisioning.settings s.domain.clock s.journal.failed s.account.acct k e.token with
        | .error r => settleToken r [] s
        | .ok t => submitToken t s

/-- The check digest of the entry in service completes: its 22 low bits are compared with the token's check (R51). -/
def tokenDigestDone (s : State) : State :=
  match s.digests, s.tokens.intake with
  | r :: rest, e :: _ =>
    if r.purpose = .tokenCheck ∧ s.tokens.service = .awaitDigest then
      checkToken e (decide (BitVec.ofNat 22 r.result = tokenCheck e.token)) { s with digests := rest }
    else s
  | _, _ => s

/-! ## Commit and drop (R61, R62) -/

/-- The account, the window, the clock and the penalty take what the entry carries, all at once (R61, R22, R54, R85, R66).
A crossing MOVE hands its day change to the Relay Store (R85). -/
def commitValues (t : TokenEntry) (s : State) : State :=
  let clock := s.domain.clock
  let setTime := decide (tokenKindOf t.body.kind = some TokenKind.setTime)
  { s with
    account.acct := t.snapshot
    tokens.window := s.tokens.window.mark t.body.serial
    domain.clock := clock.makeAnchor setTime t.body.outcome
    domain.penalty := .zero
    relay := match clock.anchorDayChange t.body.outcome with
      | some day => s.relay.sweep day
      | none => s.relay }

/-- The notices the commit calls for (R25, R33). -/
def commitNotices (before : AccountState) (t : TokenEntry) (s : State) : State :=
  raiseIf t.tariffApplied .tariffApplied
    (raiseIf t.lowCredit .lowCredit
      (raiseIf (decide (before ≠ t.snapshot.state)) .accountState s))

/-- What an ACCEPTED reply adds: issue day, and the account's state, balance and debt (R63, R181). -/
def acceptedExtra (t : TokenEntry) : List Byte :=
  natBytes 2 t.body.issueDay ++ [t.snapshot.state.code] ++ natBytes 4 t.snapshot.balance ++ natBytes 2 t.snapshot.debt

/-- The result ACCEPTED is delivered and the own receipt requested. After holdover has begun neither is done (R61). -/
def deliverAccepted (t : TokenEntry) (s : State) : State :=
  requestReceipt t.body.serial (settleToken .accepted (acceptedExtra t) s)

/-- The commit of a TOKEN entry (R61). -/
def commitToken (t : TokenEntry) (s : State) : State :=
  releasePin
    (commitNotices s.account.acct.state t
      (deliverAccepted t (giveCaps (commitValues t s))))

/-- A TOKEN entry is dropped: the result is NOT_DURABLE and the pin is released (R62). -/
def dropToken (s : State) : State := releasePin (settleToken .notDurable [] s)

end Sys2Proof.Machine
end

