-- ==== Sys2Proof/Machine/Provision.lean ====
section
/-! DEFINITION. The Provisioning Record: the PROVISION body read and judged, and the completion of provisioning (11). -/

namespace Sys2Proof.Machine

/-! ## Reading the body (Tables 12-11 and 12-12) -/

/-- A tariff entry read at an offset of the body. -/
def readTariff (body : List Byte) (o : Nat) : Tariff where
  number := fieldAt body o 1
  standing := fieldAt body (o + 1) 3
  prices := ⟨fieldAt body (o + 4) 2, fieldAt body (o + 6) 2, fieldAt body (o + 8) 2, fieldAt body (o + 10) 2⟩
  allowance := fieldAt body (o + 12) 3
  graceDays := fieldAt body (o + 19) 1 % 8
  graceDuty := fieldAt body (o + 15) 2
  gracePorts := portSetOf (fieldAt body (o + 20) 1) 4
  debtLimit := fieldAt body (o + 17) 2
  portSet := portSetOf (fieldAt body (o + 20) 1) 0
  catchUpCap := fieldAt body (o + 19) 1 / 8 % 8
  mode := if (fieldAt body (o + 19) 1).testBit 7 then .service else .calendar

/-- The offsets of the eight tariff entries. -/
def tariffOffsets : List Nat := (List.range 8).map (fun i => 72 + 21 * i)

/-- The fields of a PROVISION body of 240 bytes. -/
def readSettings (body : List Byte) : Settings where
  kitNumber := fieldAt body 0 4
  district := fieldAt body 4 2
  kitKey := BitVec.ofNat 128 (fieldAt body 6 16)
  districtKey := BitVec.ofNat 128 (fieldAt body 22 16)
  initialIndex := fieldAt body 38 1
  initialCredit := fieldAt body 39 4
  initialTime := ⟨fieldAt body 43 2, fieldAt body 45 2⟩
  currentLimits := ⟨fieldAt body 47 2, fieldAt body 49 2, fieldAt body 51 2, fieldAt body 53 2⟩
  shedRanks := ⟨fieldAt body 55 1, fieldAt body 56 1, fieldAt body 57 1, fieldAt body 58 1⟩
  f1 := fieldAt body 59 2
  f2 := fieldAt body 61 2
  f3 := fieldAt body 63 2
  hysteresis := fieldAt body 65 2
  cutoffIndex := fieldAt body 67 1
  restartMargin := fieldAt body 68 2
  acceptAge := fieldAt body 70 1
  rcTrim := (BitVec.ofNat 8 (fieldAt body 71 1)).toInt
  tariffs := tariffOffsets.map (readTariff body)

/-! ## Judging it (R176, R183) -/

/-- A range test of the body: the offset of the field's first byte, and whether the field lies in its range. -/
abbrev RangeTest := Nat × Bool

/-- Whether a number lies in a range, both ends included. -/
def within (low high v : Nat) : Bool := decide (low ≤ v) && decide (v ≤ high)

/-- The range tests of a tariff entry, in order of offset (Table 2-1, Table 12-12). -/
def tariffTests (body : List Byte) (o : Nat) : List RangeTest :=
  [ (o, within 1 255 (fieldAt body o 1)),
    (o + 1, within 0 100000 (fieldAt body (o + 1) 3)),
    (o + 4, within 0 50000 (fieldAt body (o + 4) 2)),
    (o + 6, within 0 50000 (fieldAt body (o + 6) 2)),
    (o + 8, within 0 50000 (fieldAt body (o + 8) 2)),
    (o + 10, within 0 50000 (fieldAt body (o + 10) 2)),
    (o + 12, within 0 2000000 (fieldAt body (o + 12) 3)),
    (o + 15, within 0 1000 (fieldAt body (o + 15) 2)),
    (o + 17, within 0 50000 (fieldAt body (o + 17) 2)),
    (o + 19, !(fieldAt body (o + 19) 1).testBit 6),
    (o + 20, decide (fieldAt body (o + 20) 1 % 16 ≠ 0)) ]

/-- The range tests of the fields before the tariffs, in order of offset (Table 11-1, Table 12-11). -/
def recordTests (body : List Byte) : List RangeTest :=
  [ (0, within 1 4294967294 (fieldAt body 0 4)),
    (4, within 1 65535 (fieldAt body 4 2)),
    (38, within 0 7 (fieldAt body 38 1)),
    (39, within 0 100000 (fieldAt body 39 4)),
    (45, within 0 1439 (fieldAt body 45 2)),
    (47, within 100 8000 (fieldAt body 47 2)),
    (49, within 100 8000 (fieldAt body 49 2)),
    (51, within 100 8000 (fieldAt body 51 2)),
    (53, within 100 8000 (fieldAt body 53 2)),
    (55, within 1 3 (fieldAt body 55 1)),
    (56, within 1 3 (fieldAt body 56 1)),
    (57, within 1 3 (fieldAt body 57 1)),
    (58, within 1 3 (fieldAt body 58 1)),
    (59, within 0 20000 (fieldAt body 59 2)),
    (61, within 0 20000 (fieldAt body 61 2)),
    (63, within 0 20000 (fieldAt body 63 2)),
    (65, within 100 1000 (fieldAt body 65 2)),
    (67, within 0 7 (fieldAt body 67 1)),
    (68, within 400 2000 (fieldAt body 68 2)),
    (70, within 30 120 (fieldAt body 70 1)),
    (71, decide (fieldAt body 71 1 ≠ 128)) ]

/-- The offset of the first field out of range (R183). -/
def firstOutOfRange (body : List Byte) : Option Nat :=
  ((recordTests body ++ tariffOffsets.flatMap (tariffTests body)).find? (fun x => !x.2)).map Prod.fst

/-- F1 > F2 > F3 > cutoff + H (R176). -/
def thresholdsOrdered (f : Settings) : Bool :=
  decide (f.f2 < f.f1) && decide (f.f3 < f.f2) && decide (f.cutoff + f.hysteresis < f.f3)

/-- The eight tariff numbers are distinct (Section 2.1). -/
def tariffNumbersDistinct (f : Settings) : Bool := decide (f.tariffs.map Tariff.number).Nodup

/-- What the record answers to a PROVISION (R176): a reply body, or the fields to program. -/
def judgeProvision (condition : RecordCondition) (power : Power) (body : List Byte) : Except (List Byte) Settings :=
  if condition = .valid then .error [ReplyResult.alreadyProvisioned.code]
  else if condition = .damaged then
    .error [ReplyResult.badProvision.code, ProvisionReason.recordDamaged.code]
  else if power ≠ .run then .error [ReplyResult.busy.code]
  else if body.length ≠ 240 then .error [ReplyResult.badRequest.code]
  else
    match firstOutOfRange body with
    | some offset =>
      .error [ReplyResult.badProvision.code, ProvisionReason.outOfRange.code, BitVec.ofNat 8 offset]
    | none =>
      let f := readSettings body
      if !thresholdsOrdered f then
        .error [ReplyResult.badProvision.code, ProvisionReason.thresholdOrder.code]
      else if !tariffNumbersDistinct f then
        .error [ReplyResult.badProvision.code, ProvisionReason.tariffNumbers.code]
      else .ok f

/-- The PROVISION request is served (R176, R177). -/
def serveProvision (req : Request) (s : State) : State :=
  match judgeProvision s.provisioning.condition s.supply.power req.body with
  | .error body => answer req body s
  | .ok f =>
    { s with
      provisioning.condition := .programming
      provisioning.phase := .programming f
      provisioning.request := some req }

/-! ## Completion (R177) -/

/-- The journal state that follows from the operation and the failed flag (R135). -/
def Journal.state (j : Journal) : JournalState :=
  if j.failed then .failed
  else
    match j.op with
    | .none => .ready
    | .write _ | .head _ => .busyWrite
    | .erase _ => .busyErase

/-- The request that a provisioning answers, answered with a body. -/
def answerProvision (body : List Byte) (s : State) : State :=
  match s.provisioning.request with
  | none => s
  | some req => answer req body { s with provisioning.request := none }

/-- The body of the PROVISION reply OK (Table 12-14). -/
def provisionedBody (s : State) : List Byte :=
  ReplyResult.ok.code :: (natBytes 4 s.provisioning.settings.kitNumber ++ [s.journal.state.code])

/-- The account, the clock, the penalty, the window and the meter take their provisioned values (R27, R88, R67, R71, R103). -/
def provisionValues (s : State) : State :=
  let f := s.provisioning.settings
  zeroMeter
    { s with
      provisioning.phase := .idle
      domain.clock := s.domain.clock.provision f.initialTime
      domain.penalty := .zero
      account := ⟨provisionedAccount f, false, none, true⟩
      tokens.window := .empty
      journal.work := .ordinary }

/-- Provisioning completes, in one event (R177). A RESTART still pending, its reply OK not yet sent, stays pending: Table 7-5
gives restart pending as no after provisioning, where Table 7-1 and R131 keep it yes until the reply is sent (log entry
44). -/
def completeProvisioning (s : State) : State :=
  let s := giveCaps (provisionValues s)
  answerProvision (provisionedBody s)
    (raiseIf s.journal.failed .journalFailed (raise .accountState s))

end Sys2Proof.Machine
end

