-- ==== Sys2Proof/Machine/Journal.lean ====
section
/-! DEFINITION. The Credit Journal: writes, compaction, failures, ring preparation, replay and history (08). -/

namespace Sys2Proof.Machine

/-! ## The ring (R132) -/

/-- Whether a sector is in the bad-sector set. -/
def isBad (bad : BitVec 8) (sector : Nat) : Bool := bad.getLsbD sector

/-- The set with a sector added. -/
def addBad (bad : BitVec 8) (sector : Nat) : BitVec 8 := bad ||| (1#8 <<< sector)

/-- How many sectors are good. -/
def goodSectors (bad : BitVec 8) : Nat := ((List.range 8).filter (fun s => !isBad bad s)).length

/-- The next good sector after a sector in ring order (R132). -/
def nextGood (bad : BitVec 8) (sector : Nat) : Nat :=
  (((List.range 8).map (fun k => (sector + 1 + k) % 8)).find? (fun s => !isBad bad s)).getD sector

/-- The lowest-numbered good sector (R147). -/
def lowestGood (bad : BitVec 8) : Nat := ((List.range 8).find? (fun s => !isBad bad s)).getD 0

/-- The number of the slot the next entry is written to. -/
def Journal.slot (j : Journal) : Nat := slotNumber j.sector j.nextSlot

/-- The entry of a slot, when the check among its bytes matches (R132, R182). -/
def Slot.valid : Slot → Option Entry
  | .entry e image => if imageChecks image then some e else none
  | .blank | .damaged => none

/-! ## Beginning work (R133 to R135, R138, R139) -/

/-- The entry a queued submission is written as: the snapshot of a TALLY or SUSPEND is the account as its write begins,
that of a TOKEN was fixed when it was formed (R134). -/
def queuedEntry (s : State) : Queued → Entry
  | .tally _ => sealEntry s.journal.nextSequence .tally s.domain.clock.time s.account.acct
  | .suspend => sealEntry s.journal.nextSequence .suspend s.domain.clock.time s.account.acct
  | .token t => sealEntry s.journal.nextSequence (.token t.body) t.time t.snapshot

/-- The sector-head checkpoint begun now: in ordinary work the account and window as they stand (R134), at replay those
found (R146), at provisioning those of R27 (R147). -/
def headEntry (s : State) : Entry :=
  let seq := s.journal.nextSequence
  match s.journal.work with
  | .ordinary => sealEntry seq (.checkpoint s.tokens.window s.journal.bad) s.domain.clock.time s.account.acct
  | .replay found => sealEntry seq (.checkpoint found.window s.journal.bad) found.time found.acct
  | .ringErase | .ringHead =>
    sealEntry seq (.checkpoint .empty s.journal.bad) s.provisioning.settings.initialTime
      (provisionedAccount s.provisioning.settings)

/-- A sector's erase begins. -/
def beginErase (sector : Nat) (s : State) : State := { s with journal.op := .erase sector }

/-- A sector becomes current and its checkpoint's write begins (R139). -/
def beginHead (sector : Nat) (s : State) : State :=
  let s := { s with journal.sector := sector, journal.nextSlot := 0 }
  { s with journal.op := .head (headEntry s) }

/-- The journal takes up its next piece of work, if it is READY and not waiting after a RESTART flush: the oldest queued
entry, or the erase that makes room for it (R135, R139). -/
def journalGoOn (s : State) : State :=
  if s.journal.failed ∨ s.journal.flushWait ∨ s.journal.op ≠ .none then s
  else
    match s.journal.queue with
    | [] => s
    | q :: _ =>
      if 60 ≤ s.journal.nextSlot then beginErase (nextGood s.journal.bad s.journal.sector) s
      else { s with journal.op := .write (queuedEntry s q) }

/-! ## History (R148) -/

/-- An entry put in its place in descending order of sequence. -/
def insertNewest (e : Entry) : List Entry → List Entry
  | [] => [e]
  | x :: rest => if x.sequence < e.sequence then e :: x :: rest else x :: insertNewest e rest

/-- The valid TOKEN entry of a slot with its kind body, when its sequence is below the bound; a bound of 0 is none. -/
def historyOf (bound : Nat) (c : Slot) : Option Entry :=
  match c.valid with
  | none => none
  | some e =>
    match e.kind with
    | .token _ => if bound = 0 ∨ e.sequence < bound then some e else none
    | _ => none

/-- The six valid TOKEN entries with the highest sequences below the bound, newest first (R148). -/
def historyEntries (f : Flash) (bound : Nat) : List Entry :=
  ((f.filterMap (fun x => historyOf bound x.2)).foldl (fun acc e => insertNewest e acc) []).take 6

/-- The 22 bytes of an entry in a HISTORY reply (Table 12-8). -/
def historyBytes (e : Entry) : List Byte :=
  match e.kind with
  | .token b =>
    natBytes 4 e.sequence ++ timeBytes e.time ++ natBytes 1 b.kind ++ natBytes 2 b.serial ++ natBytes 2 b.value
      ++ natBytes 2 b.issueDay ++ [e.snapshot.state.code] ++ natBytes 4 e.snapshot.balance ++ natBytes 2 e.snapshot.debt
  | _ => []

/-- The HISTORY reply body (Table 12-8). -/
def historyBody (f : Flash) (bound : Nat) : List Byte :=
  let entries := historyEntries f bound
  ReplyResult.ok.code :: BitVec.ofNat 8 entries.length :: entries.flatMap historyBytes

/-- A HISTORY request is answered from the flash as it stands. -/
def answerHistory (s : State) (req : Request) : State :=
  answer req (historyBody s.flash (fieldAt req.body 0 4)) s

/-- The HISTORY requests held are served, in the order they came, in RUN (R148). -/
def serveHeldHistory (s : State) : State :=
  if s.supply.power = .run then s.journal.held.foldl answerHistory { s with journal.held := [] } else s

/-! ## Completion (R138) -/

/-- A TALLY that carries a RESTART completes: the reply OK is queued and the journal waits (R131, R135). Where the
request's reply was cancelled by a break, the core is restarted at once. -/
def completeFlush (s : State) : State :=
  match s.supply.restartRequest with
  | none => coreRestart s
  | some req =>
    if req.id ∈ s.link.cancelled then coreRestart s
    else
      completeReply ⟨req.id, req.tag, req.kind, [ReplyResult.ok.code], true⟩
        { s with journal.flushWait := true }

/-- The submitter of a completed entry is told (R138). -/
def tellComplete (q : Queued) (s : State) : State :=
  match q with
  | .token t => commitToken t s
  | .suspend => coreOff s
  | .tally restart => if restart && s.supply.restartPending then completeFlush s else s

/-- The submitter of a dropped entry is told (R142). -/
def tellDropped (s : State) (q : Queued) : State :=
  match q with
  | .token _ => dropToken s
  | .tally restart =>
    if restart && s.supply.restartPending then
      let t := { s with supply.restartPending := false, supply.restartRequest := none }
      match s.supply.restartRequest with
      | none => t
      | some req => answerResult req .notDurable t
    else s
  | .suspend => s

/-- The core goes off when holdover has nothing more to wait for, or when a start given up waited for the operation that
has ended (R125, R129). -/
def offIf (b : Bool) (s : State) : State := if b then coreOff s else s

/-- What becoming FAILED ends: a replay's move-on, a ring preparation, or nothing (R146, R147). -/
def endWork (s : State) : State :=
  match s.journal.work with
  | .ordinary => s
  | .replay found =>
    { s with journal.work := .ordinary, supply.replay := .done (some found) }
  | .ringErase | .ringHead => completeProvisioning s

/-- The journal becomes FAILED: its queue is dropped and each submitter told, and JOURNAL_FAILED is raised (R142). In
HOLDOVER the core goes off (R125). -/
def journalFail (s : State) : State :=
  let queue := s.journal.queue
  let t := { s with
    journal.failed := true, journal.queue := [], journal.op := .none, journal.flushWait := false }
  let t := endWork (raise .journalFailed (queue.foldl tellDropped t))
  offIf (decide (t.supply.power = .holdover)) t

/-- After a verify failure of a sector: FAILED when fewer than two good sectors remain, else the next good sector in ring
order is erased (R140, R141). -/
def moveOn (sector : Nat) (s : State) : State :=
  if goodSectors s.journal.bad < 2 then journalFail s
  else beginErase (nextGood s.journal.bad sector) s

/-- What a sector-head checkpoint's completion ends (R139, R146, R147). -/
def headComplete (s : State) : State :=
  match s.journal.work with
  | .ordinary => s
  | .replay found =>
    { s with journal.work := .ordinary, supply.replay := .done (some found) }
  | .ringErase | .ringHead =>
    let t := completeProvisioning s
    offIf (decide (t.supply.power = .holdover)) t

/-- A slot write ends with its verify passed: the slot holds the entry's bytes and is valid (R138, R182), and the journal
moves on by one slot and one sequence. -/
def writePassed (e : Entry) (s : State) : State :=
  { s with
    flash := flashWrite s.flash s.journal.slot (.entry e (slotImage e))
    journal.nextSlot := s.journal.nextSlot + 1
    journal.nextSequence := s.journal.nextSequence + 1
    journal.op := .none }

/-- A slot write ends with its verify failed: the slot is damaged and the current sector bad (R140). -/
def writeFailed (s : State) : State :=
  { s with
    flash := flashWrite s.flash s.journal.slot .damaged
    journal.bad := addBad s.journal.bad s.journal.sector
    journal.op := .none }

/-- The oldest entry leaves the write queue and its submitter is told. -/
def completeOldest (s : State) : State :=
  match s.journal.queue with
  | [] => s
  | q :: rest => tellComplete q { s with journal.queue := rest }

/-- A slot write ends (R138, R140). Held HISTORY requests are served before the next work begins (R148). -/
def writeEnd (verify : Bool) (s : State) : State :=
  match s.journal.op with
  | .write e =>
    if verify then serveHeldHistory (completeOldest (writePassed e s))
    else moveOn s.journal.sector (serveHeldHistory (writeFailed s))
  | .head e =>
    if verify then
      if s.supply.givenUp then coreOff (writePassed e s) else serveHeldHistory (headComplete (writePassed e s))
    else if s.supply.givenUp then coreOff (writeFailed s)
    else moveOn s.journal.sector (serveHeldHistory (writeFailed s))
  | .none | .erase _ => s

/-- Ring preparation goes on after a sector: the next is erased, and after sector 7 the lowest good sector is headed
with the first CHECKPOINT, sequence 1 (R147). -/
def continueRing (sector : Nat) (s : State) : State :=
  if sector < 7 then beginErase (sector + 1) s
  else
    beginHead (lowestGood s.journal.bad)
      { s with journal.work := .ringHead, journal.nextSequence := 1 }

/-- What follows a sector's erase whose verify passed (R139, R146, R147). -/
def erasePassed (sector : Nat) (s : State) : State :=
  let s := serveHeldHistory
    { s with flash := flashErase s.flash sector, journal.op := .none }
  if s.supply.givenUp then coreOff s
  else if s.journal.work = .ringErase then continueRing sector s
  else beginHead sector s

/-- What follows a sector's erase whose verify failed (R141, R147). -/
def eraseFailed (sector : Nat) (left : List SlotLeft) (s : State) : State :=
  let s := serveHeldHistory
    { s with
      flash := flashEraseFailed s.flash sector left
      journal.bad := addBad s.journal.bad sector
      journal.op := .none }
  if s.supply.givenUp then coreOff s
  else if 2 ≤ goodSectors s.journal.bad ∧ s.journal.work = .ringErase then continueRing sector s
  else moveOn sector s

/-- A sector erase ends (R139, R141). -/
def eraseEnd (verify : Bool) (left : List SlotLeft) (s : State) : State :=
  match s.journal.op with
  | .erase sector => if verify then erasePassed sector s else eraseFailed sector left s
  | _ => s

/-- Ring preparation begins with sector 0 (R147). -/
def beginRing (s : State) : State :=
  beginErase 0 { s with journal := { Journal.start with work := .ringErase } }

/-- Programming ends (R177). A failed verify leaves the record DAMAGED and ends provisioning; in HOLDOVER the core then
goes off (log entry 23). -/
def programmingDone (verify : Bool) (s : State) : State :=
  match s.provisioning.phase with
  | .programming f =>
    if verify then
      beginRing
        { s with
          provisioning.otp := .written f (recordCheck f)
          provisioning.condition := .valid
          provisioning.phase := .ring }
    else
      let t := answerProvision [ReplyResult.badProvision.code, ProvisionReason.recordDamaged.code]
        { s with
          provisioning.otp := .spoiled
          provisioning.condition := .damaged
          provisioning.phase := .idle }
      offIf (decide (t.supply.power = .holdover)) t
  | _ => s

/-! ## Replay (R144 to R146) -/

/-- A checkpoint that a sector's slot 0 holds. -/
structure SectorHead where
  sector : Nat
  entry : Entry
  window : Window
  bad : BitVec 8
deriving DecidableEq, Repr

/-- The valid CHECKPOINT in slot 0 of a sector (R144). -/
def sectorHead (f : Flash) (sector : Nat) : Option SectorHead :=
  match (flashRead f (slotNumber sector 0)).valid with
  | none => none
  | some e =>
    match e.kind with
    | .checkpoint w bad => some ⟨sector, e, w, bad⟩
    | _ => none

/-- The head with the higher sequence of two. -/
def higherHead (a b : SectorHead) : SectorHead := if a.entry.sequence < b.entry.sequence then b else a

/-- The serving sector's head: the valid CHECKPOINT with the highest sequence (R144). -/
def servingHead (f : Flash) : Option SectorHead :=
  match (List.range 8).filterMap (sectorHead f) with
  | [] => none
  | h :: rest => some (rest.foldl higherHead h)

/-- The result of replay's walk: the newest complete entry, the window, the slot at which the walk stopped, and whether
that slot is damaged or a valid slot that did not continue it (R145, R146). -/
structure Walk where
  newest : Entry
  window : Window
  slot : Nat
  dirty : Bool
deriving DecidableEq, Repr

/-- The window after a replayed entry (R145). -/
def markReplayed (k : EntryKind) (w : Window) : Window :=
  match k with
  | .token b => w.mark b.serial
  | _ => w

/-- Whether an entry continues the walk after the newest one: a TOKEN, TALLY or SUSPEND with the next sequence (R145). -/
def continues (newest e : Entry) : Bool :=
  match e.kind with
  | .checkpoint _ _ => false
  | _ => decide (e.sequence = newest.sequence + 1)

/-- Replay's walk over the slots of a sector from `slot`, `n` of them (R145). -/
def walkSlots (f : Flash) (sector : Nat) : Nat → Nat → Entry → Window → Walk
  | 0, slot, newest, w => ⟨newest, w, slot, false⟩
  | n + 1, slot, newest, w =>
    let c := flashRead f (slotNumber sector slot)
    match c.valid with
    | some e =>
      if continues newest e then walkSlots f sector n (slot + 1) e (markReplayed e.kind w)
      else ⟨newest, w, slot, true⟩
    | none => ⟨newest, w, slot, decide (c ≠ .blank)⟩

/-- Whether a valid slot anywhere in flash carries a sequence above the newest complete entry's (R146). -/
def strayAbove (f : Flash) (sequence : Nat) : Bool :=
  f.any (fun x => (x.2.valid).any (fun e => decide (sequence < e.sequence)))

/-- Replay on a provisioned part (R144 to R146): the journal is positioned, and moves on where the serving sector cannot
safely be written further. With no valid checkpoint it is FAILED. -/
def runReplay (s : State) : State :=
  match servingHead s.flash with
  | none => { s with journal.failed := true, supply.replay := .done none }
  | some h =>
    let w := walkSlots s.flash h.sector 59 1 h.entry h.window
    let found : Found := ⟨w.newest.snapshot, w.newest.time, w.window⟩
    let t := { s with
      journal.queue := [], journal.sector := h.sector, journal.nextSlot := w.slot,
      journal.nextSequence := w.newest.sequence + 1, journal.bad := h.bad }
    if goodSectors h.bad < 2 then
      { t with journal.failed := true, supply.replay := .done (some found) }
    else if w.dirty || strayAbove s.flash w.newest.sequence then
      beginErase (nextGood h.bad h.sector)
        { t with journal.work := .replay found, supply.replay := .working }
    else { t with supply.replay := .done (some found) }

end Sys2Proof.Machine
end

