-- ==== Sys2Proof/Machine/Store.lean ====
section
/-! DEFINITION. The Relay Store at work: its requests taken one at a time, the bundle read, each item checked and evaluated (09). -/

namespace Sys2Proof.Machine

/-! ## Reading a bundle (R155, R180) -/

/-- Whether a number is that of a kit. -/
def kitNumberValid (n : Nat) : Bool := decide (1 ≤ n) && decide (n ≤ 4294967294)

/-- The 22 bytes after a token item's type; the six high bits of the token number are ignored (R180). -/
def readTokenItem (b : List Byte) : Option RelayItem :=
  let destination := fieldAt b 0 4
  let hop := fieldAt b 17 1
  if kitNumberValid destination && decide (hop ≤ 7) then
    some (.token destination (BitVec.ofNat 66 (fieldAt b 4 9)) (fieldAt b 13 2) (fieldAt b 15 2) hop
      (BitVec.ofNat 32 (fieldAt b 18 4)))
  else none

/-- The 12 bytes after a receipt item's type. -/
def readReceiptItem (b : List Byte) : Option RelayItem :=
  let kit := fieldAt b 0 4
  let serial := fieldAt b 4 2
  if kitNumberValid kit && decide (serial ≠ 0) then
    some (.receipt kit serial (fieldAt b 6 2) (BitVec.ofNat 32 (fieldAt b 8 4)))
  else none

/-- The items of a bundle of `n` items; none when the bytes do not hold exactly `n` items or one cannot be taken. -/
def readItems : Nat → List Byte → Option (List RelayItem)
  | 0, bytes => if bytes = [] then some [] else none
  | n + 1, bytes =>
    match bytes with
    | [] => none
    | type :: rest =>
      if type = 1 ∧ 22 ≤ rest.length then
        match readTokenItem (rest.take 22), readItems n (rest.drop 22) with
        | some item, some items => some (item :: items)
        | _, _ => none
      else if type = 2 ∧ 12 ≤ rest.length then
        match readReceiptItem (rest.take 12), readItems n (rest.drop 12) with
        | some item, some items => some (item :: items)
        | _, _ => none
      else none

/-- The items of a CARRY body; none when it is answered BAD_REQUEST (R155). -/
def readBundle (body : List Byte) : Option (List RelayItem) :=
  match body with
  | [] => none
  | count :: rest => if count.toNat ≤ 8 then readItems count.toNat rest else none

/-! ## Envelopes (R152) -/

/-- The fields an item's envelope covers (Table 9-3). -/
def RelayItem.envelopeFields : RelayItem → List Nat
  | .token destination tok issue expiry _ _ => [destination, tok.toNat, issue, expiry]
  | .receipt kit serial created _ => [kit, serial, created]

/-- The envelope an item carries. -/
def RelayItem.envelope : RelayItem → BitVec 32
  | .token _ _ _ _ _ env => env
  | .receipt _ _ _ env => env

/-- The envelope check of an item is requested. -/
def requestItemCheck (item : RelayItem) (s : State) : State :=
  requestDigest ⟨.itemCheck, s.provisioning.settings.districtKey, item.envelopeFields⟩ s

/-! ## Evaluation (Tables 9-4 and 9-5) -/

/-- A record stored from an item, its expiry day at most the bound (R156). -/
def storedRecord (destination : Nat) (token : BitVec 66) (issue expiry hop : Nat) (env : BitVec 32) (day : Nat) :
    RelayRecord :=
  ⟨destination, token, issue, min expiry (day + 60), hop, env, 0⟩

/-- What the evaluation of a token item for another kit makes of the records, and its result (Table 9-4 from the hop
limit on). -/
def evaluateRecord (day : Nat) (x : RelayStore) (destination : Nat) (token : BitVec 66) (issue expiry hop : Nat)
    (env : BitVec 32) : ItemResult × List RelayRecord :=
  let serial := tokenSerial token
  let record := storedRecord destination token issue expiry hop env day
  if hop = 7 then (.hopLimit, x.records)
  else if x.receipts.any (Receipt.isFor destination serial) then (.alreadyDelivered, x.records)
  else if x.records.any (RelayRecord.isFor destination serial) then
    (.merged, mergeHop destination serial hop x.records)
  else if x.records.length < 48 then (.stored, x.records ++ [record])
  else
    match victim x.records with
    | none => (.stored, x.records ++ [record])
    | some v =>
      if hop ≤ v.hop then
        (.stored, removeRecord v.destination (tokenSerial v.token) x.records ++ [record])
      else (.storeFull, x.records)

/-- What the evaluation of a receipt item makes of the store, and its result (Table 9-5). -/
def evaluateReceipt (ownKit : Nat) (x : RelayStore) (r : Receipt) : ItemResult × RelayStore :=
  if r.kit = ownKit then (.receiptIgnored, x)
  else if x.records.any (RelayRecord.isFor r.kit r.serial) then
    (.receiptMatched,
      { x with records := removeRecord r.kit r.serial x.records, receipts := addReceipt r x.receipts })
  else (.receiptStored, { x with receipts := addReceipt r x.receipts })

/-- A settled item: its result, the part after its effect, and whether its record's envelope must be renewed. -/
structure SettledItem where
  result : ItemResult
  state : State
  renew : Option (Nat × Nat)

/-- The evaluation of an item whose check has completed, against the store, the receipts and the clock day (R155). -/
def evaluateItem (good : Bool) (item : RelayItem) (s : State) : SettledItem :=
  let day := s.domain.clock.day
  let own := s.provisioning.settings.kitNumber
  if !good then ⟨.badEnvelope, s, none⟩
  else
    match item with
    | .receipt kit serial created env =>
      let r := evaluateReceipt own s.relay ⟨kit, serial, created, env, 0⟩
      ⟨r.1, { s with relay := r.2 }, none⟩
    | .token destination token issue expiry hop env =>
      if expiry < day then ⟨.expired, s, none⟩
      else if destination = own then
        if s.tokens.hasRoom then ⟨.queued, joinIntake ⟨.relay, token⟩ s, none⟩ else ⟨.intakeFull, s, none⟩
      else
        let r := evaluateRecord day s.relay destination token issue expiry hop env
        ⟨r.1, { s with relay.records := r.2 },
          if r.1 = .stored ∧ day + 60 < expiry then some (destination, tokenSerial token) else none⟩

/-! ## Service (R154, R155, R156) -/

/-- The CARRY reply body (R180). -/
def carryBody (results : List ItemResult) (s : State) : List Byte :=
  ReplyResult.ok.code ::
    (results.map ItemResult.code ++ natBytes 1 s.relay.records.length ++ natBytes 1 s.relay.receipts.length)

/-- The service of an item has ended: the next item's check is requested, or the CARRY is answered (R155). -/
def carryGoOn (c : CarryService) (s : State) : State :=
  match c.items with
  | item :: _ => requestItemCheck item { s with relay.service := some c }
  | [] =>
    let t := { s with relay.service := none }
    answer c.request (carryBody c.results t) t

/-- The store goes on after an item is settled: with a shortened expiry day its record's envelope is renewed first
(R156). -/
def afterItem (c : CarryService) (renew : Option (Nat × Nat)) (s : State) : State :=
  match renew with
  | none => carryGoOn c s
  | some (destination, serial) =>
    match s.relay.records.find? (RelayRecord.isFor destination serial) with
    | none => carryGoOn c s
    | some r =>
      requestDigest
        ⟨.renewal, s.provisioning.settings.districtKey, [r.destination, r.token.toNat, r.issueDay, r.expiryDay]⟩
        { s with relay.service := some { c with renewing := some (destination, serial) } }

/-- An item is settled. Where it put a token in an idle intake, the Token Unit's check digest joins the digest list
before the store's next request or after it, as the command names (log entry 8). -/
def settleItem (order : DigestOrder) (c : CarryService) (x : SettledItem) : State :=
  let c := { c with items := c.items.drop 1, results := c.results ++ [x.result] }
  match order with
  | .tokenFirst => afterItem c x.renew (serveTokens x.state.tokens.intake.length x.state)
  | .storeFirst => afterItem c x.renew x.state

/-- The envelope check of the item in service completes (R155). -/
def itemDigestDone (order : DigestOrder) (s : State) : State :=
  match s.digests, s.relay.service with
  | r :: rest, some c =>
    if r.purpose = .itemCheck then
      match c.items with
      | [] => s
      | item :: _ =>
        settleItem order c (evaluateItem (decide (r.envelope = item.envelope)) item { s with digests := rest })
    else s
  | _, _ => s

/-- The renewed envelope completes and is placed in the record; the item's service ends (R156). -/
def renewalDigestDone (s : State) : State :=
  match s.digests, s.relay.service with
  | r :: rest, some c =>
    if r.purpose = .renewal then
      match c.renewing with
      | none => s
      | some (destination, serial) =>
        carryGoOn { c with renewing := none }
          { s with
            digests := rest
            relay.records := renewEnvelope destination serial r.envelope s.relay.records }
    else s
  | _, _ => s

/-- An own receipt's envelope completes and the receipt is added (R65, R158). -/
def receiptDigestDone (s : State) : State :=
  match s.digests with
  | r :: rest =>
    match r.purpose with
    | .ownReceipt serial created =>
      { s with
        digests := rest
        relay.receipts := addReceipt
          ⟨s.provisioning.settings.kitNumber, serial, created, r.envelope, 0⟩ s.relay.receipts }
    | _ => s
  | [] => s

/-- A CARRY is taken (R155). -/
def takeCarry (req : Request) (s : State) : State :=
  match readBundle req.body with
  | none => answerResult req .badRequest s
  | some items => carryGoOn ⟨req, items, [], none⟩ s

/-- The count and neighbour of a HANDOFF body; none when it is answered BAD_REQUEST (R159). -/
def readHandoff (body : List Byte) : Option (Nat × Option Nat) :=
  if body.length = 1 then some (min (fieldAt body 0 1) 8, none)
  else if body.length = 5 ∧ kitNumberValid (fieldAt body 0 4) = true then
    some (min (fieldAt body 4 1) 8, some (fieldAt body 0 4))
  else none

/-- The body of a HANDOFF or RECEIPTS reply: result, item count, items, the count of what is held after it (R180). -/
def handedBody (items : List RelayItem) (held : Nat) : List Byte :=
  ReplyResult.ok.code :: (natBytes 1 items.length ++ items.flatMap itemBytes ++ natBytes 1 held)

/-- A HANDOFF is taken (R159). -/
def takeHandoff (req : Request) (s : State) : State :=
  match readHandoff req.body with
  | none => answerResult req .badRequest s
  | some (k, neighbour) =>
    let out := handoffList neighbour k s.relay.records
    let records := afterHandoff out s.relay.records
    answer req (handedBody (out.map RelayRecord.copy) records.length)
      { s with relay.records := records }

/-- A RECEIPTS is taken (R160). -/
def takeReceipts (req : Request) (s : State) : State :=
  if req.body.length = 1 then
    let k := min (fieldAt req.body 0 1) 8
    let receipts := afterReceipts k s.relay.receipts
    answer req (handedBody ((s.relay.receipts.take k).map Receipt.copy) receipts.length)
      { s with relay.receipts := receipts }
  else answerResult req .badRequest s

/-- A request of the store is taken. -/
def takeStoreRequest (req : Request) (s : State) : State :=
  match requestKindOf req.kind with
  | some .carry => takeCarry req s
  | some .handoff => takeHandoff req s
  | _ => takeReceipts req s

/-- While no request is in service and the clock is set, the oldest waiting request is taken (R154). `n` bounds the
requests taken; the list's length is enough. -/
def serveStore : Nat → State → State
  | 0, s => s
  | n + 1, s =>
    if s.relay.service = none ∧ s.domain.clock.timeSet = true then
      match s.relay.waiting with
      | [] => s
      | req :: rest => serveStore n (takeStoreRequest req { s with relay.waiting := rest })
    else s

end Sys2Proof.Machine
end

