-- ==== Sys2Proof/Machine/Supply.lean ====
section
/-! DEFINITION. The Supply Monitor: shedding, holdover, the restart filter, the start event, RESTART, and the second (07, R73). -/

namespace Sys2Proof.Machine

/-! ## Shedding (R121) -/

/-- The thresholds of a part: F1, F2, F3; an unprovisioned part has none (R121). -/
def State.thresholds (s : State) : List Nat :=
  if s.provisioning.provisioned then [s.levels.f1, s.levels.f2, s.levels.f3] else []

/-- How many thresholds a reading lies below. -/
def belowCount (fs : List Nat) (v : Nat) : Nat := (fs.filter (fun f => decide (v < f))).length

/-- The shed level of a reading, from the level in force (R121). -/
def shedLevelOf (fs : List Nat) (hysteresis level v : Nat) : Nat :=
  max (belowCount fs v) (belowCount ((fs.take level).map (fun f => f + hysteresis)) v)

/-- The shed level is recomputed in RUN and, when it changes, given to the switches with SHED_LEVEL raised (R121). -/
def shed (v : Nat) (s : State) : State :=
  let level := shedLevelOf s.thresholds s.levels.hysteresis s.supply.shedLevel v
  if level = s.supply.shedLevel then s
  else raise .shedLevel (giveShedLevel { s with supply.shedLevel := level })

/-! ## Holdover (R124) -/

/-- At holdover the Token Unit drops every entry whose TOKEN entry has not been submitted (R70). -/
def TokenUnit.holdover (u : TokenUnit) : TokenUnit :=
  match u.service with
  | .inFlight => { u with intake := u.intake.take 1 }
  | _ => { u with intake := [], service := .idle }

/-- The link at holdover: it stops receiving, discards the frame in reception, and cuts off the frame being sent (R174). -/
def Link.stop (l : Link) : Link := { l with receiving := false, reception := none, onLine := none }

/-- What the beginning of holdover makes of the blocks (R118, R101, R70, R69, R163, R174, R131, R135). The sense states
stand as they are until the core goes off, as R101 says, where R100 has holdover clear them (log entry 40). -/
def enterHoldover (s : State) : State :=
  { s with
    switches := ⟨s.switches.ports.map Port.stop, false⟩
    meter.sampling := false
    tokens := s.tokens.holdover
    digests := []
    relay.service := none
    relay.waiting := []
    link := s.link.stop
    supply := { s.supply with power := .holdover, restartPending := false, restartRequest := none }
    journal.flushWait := false }

/-- Holdover begins (R124). A provisioned part submits its SUSPEND entry, or with a FAILED journal goes off at once
(R125); an UNPROVISIONED one goes off at once, unless provisioning is in progress (R177). -/
def beginHoldover (s : State) : State :=
  let t := enterHoldover s
  if s.provisioning.provisioned then (if s.journal.failed then coreOff t else submitEntry .suspend t)
  else if s.provisioning.inProgress then t
  else coreOff t

/-! ## The battery reading (R120, R129) -/

/-- The start is given up: the intake is dropped, and the core goes off at once or when the flash operation of replay ends
(R129). -/
def giveUpStart (s : State) : State :=
  let t := { s with tokens.intake := [], tokens.service := .idle, supply.givenUp := true }
  if s.journal.op = .none then coreOff t else t

/-- The restart filter has counted 60: replay is asked for, once; without a valid record there is none to make (R129, R130). -/
def askReplay (s : State) : State :=
  if s.supply.replay = .notAsked then
    if s.provisioning.condition = .valid then runReplay s
    else { s with supply.replay := .done none }
  else s

/-- A battery reading in STARTING drives the restart filter (R129). -/
def startingReading (v : Nat) (s : State) : State :=
  if s.supply.givenUp then s
  else if v < s.levels.cutoff then giveUpStart s
  else if v < s.levels.restartLevel then { s with supply.filter := 0 }
  else
    let count := min (s.supply.filter + 1) 60
    let t := { s with supply.filter := count }
    if count = 60 then askReplay t else t

/-- A battery reading is recorded and acted on according to the power state (R120). -/
def takeBatteryReading (average : Nat) (s : State) : State :=
  let v := batteryReading average
  let t := { s with supply.battery := v }
  match s.supply.power with
  | .run => if v < s.levels.cutoff then beginHoldover t else shed v t
  | .starting => startingReading v t
  | .holdover | .off => t

/-! ## The second (R73, R91, R110, R122, R123, R127) -/

/-- A minute arrival, with the day change and the tally point it raises (R74, R75). -/
def minuteArrives (s : State) : State :=
  let c := s.domain.clock
  let next := c.minuteArrival
  let t := if c.dayChangeRaised then
      { s with domain.clock := next.dayChange, relay := s.relay.sweep next.day }
    else { s with domain.clock := next }
  match c.tallyPointRaised with
  | none => t
  | some point => takeTallyPoint point t

/-- A minute arrival when the second field has wrapped. -/
def minuteIf (due : Bool) (s : State) : State := if due then minuteArrives s else s

/-- The second field advances, to 0 at 60 (R73), and the penalty wait falls (R67). -/
def advanceSecond (s : State) : State :=
  { s with
    domain.clock.second := if 59 ≤ s.domain.clock.second then 0 else s.domain.clock.second + 1
    domain.penalty := s.domain.penalty.second }

/-- Whether a battery reading begins holdover (R124). -/
def endsRun (average : Nat) (s : State) : Bool :=
  decide (s.supply.power = .run) && decide (batteryReading average < s.levels.cutoff)

/-- A second with the core powered: the sample and the driven answers, the battery reading, and the minute arrival in the
place the command names (R91, R110, R120, R96). Where the reading begins holdover no tally stands between the sample and
it, for the energy of that second is never charged (R93). The driven answers are set for the new second before the reading
changes a shed level, so that a port shed there is answered driven (log entry 41). -/
def coreSecond (x : Sample) (due : Bool) (s : State) : State :=
  let sample := fun t => reportDriven (takeSample x.battery x.currents t)
  let battery := takeBatteryReading x.battery
  match x.order with
  | .minuteFirst => battery (sample (minuteIf due s))
  | .minuteMiddle =>
    if endsRun x.battery s then minuteIf due (battery (sample s)) else battery (minuteIf due (sample s))
  | .minuteLast => minuteIf due (battery (sample s))

/-- A second with the core off: the clock counts on, a low backup cell stops the clock domain (R123), and otherwise the
wake check powers the core at the restart level (R127). -/
def sleepingSecond (x : Sample) (due : Bool) (s : State) : State :=
  let t := minuteIf due s
  if backupReadingOf x.backup < 1800 then { t with domain := .off }
  else if t.levels.restartLevel ≤ batteryReading x.battery then corePowerUp t
  else t

/-- A second of the time base arrives (R73). Without a powered clock domain there is none. -/
def secondArrives (x : Sample) (s : State) : State :=
  if s.domain.powered then
    let due := decide (59 ≤ s.domain.clock.second)
    let t := measureBackup x.backup (advanceSecond s)
    if s.supply.power = .off then sleepingSecond x due t else coreSecond x due t
  else s

/-! ## METER (R98) -/

/-- The METER reply body (Table 12-13). -/
def meterBody (s : State) : List Byte :=
  let m := s.meter
  let a := s.account.acct
  ReplyResult.ok.code ::
    (m.counts.bytes (natBytes 4) ++ a.marks.bytes (natBytes 4)
      ++ (untallied m.counts a.marks).bytes (natBytes 4)
      ++ m.ports.bytes (fun p => natBytes 4 p.residue)
      ++ m.ports.bytes (fun p => natBytes 2 p.lastCurrent)
      ++ m.ports.bytes (fun p => [p.sense.code])
      ++ natBytes 2 m.lastVoltage ++ [boolByte m.sampling] ++ timeBytes a.lastTally)

/-- A METER request is answered from the meter as it stands. -/
def answerMeter (s : State) (req : Request) : State := answer req (meterBody s) s

/-- The METER requests held are served, in the order they came (R98). -/
def serveHeldMeter (s : State) : State :=
  s.meter.held.foldl answerMeter { s with meter.held := [] }

/-! ## The start event (R130) -/

/-- Step 1: at a cold start the penalty takes its fresh values (R67), and on a provisioned part the clock is set, LOST,
from the newest entry or from the initial time, and CLOCK_LOST is raised (R90). A start whose clock is not set is taken
as cold by R130, the start after a RESTART of an UNPROVISIONED part among them, so that its penalty takes the fresh
values too (log entry 27). -/
def startClock (found : Option Found) (s : State) : State :=
  if s.domain.clock.timeSet then s
  else
    let t := { s with domain.penalty := .fresh }
    if s.provisioning.condition = .valid then
      let time := match found with
        | some x => x.time
        | none => s.provisioning.settings.initialTime
      raise .clockLost { t with domain.clock := s.domain.clock.coldStart time }
    else t

/-- The account and the window a start loads (R26, R27, R71). -/
def startAccount (valid : Bool) (f : Settings) (found : Option Found) : Account × Window :=
  match valid, found with
  | true, some x => (x.acct, x.window)
  | true, none => (unreplayedAccount f, .empty)
  | false, _ => (.unprovisioned, .empty)

/-- Step 2: the account is loaded and the meter restored (R26, R102, R103); the METER requests held are served when the
restore is made (R98). -/
def loadAccount (found : Option Found) (s : State) : State :=
  let valid := decide (s.provisioning.condition = .valid)
  let x := startAccount valid s.provisioning.settings found
  serveHeldMeter
    (restoreMeter
      { s with account := ⟨x.1, false, none, true⟩, tokens.window := x.2 })

/-- The intervals of a warm-start catch-up (R38). -/
def warmIntervals (t : Tariff) (last now : ClockTime) : Nat :=
  match t.mode with
  | .calendar => tallyPoints last now
  | .service => 0

/-- Step 3: at a warm start the account performs its catch-up and queues a TALLY entry (R26, R38). -/
def warmCatchUp (s : State) : State :=
  let a := s.account.acct
  let f := s.provisioning.settings
  let now := s.domain.clock.time
  let n := warmIntervals (tariffOf f a.activeTariff) a.lastTally now
  submitTally false (takeCharged (catchUp f n (decide (a.lastTally.day < now.day)) now a) s)

/-- Step 4: the caps are given, and the shed level computed from the last battery reading and given (R24, R130). -/
def startLevels (s : State) : State :=
  let level := belowCount s.thresholds s.supply.battery
  raiseIf (decide (0 < level)) .shedLevel
    (giveShedLevel { giveCaps s with supply.shedLevel := level })

/-- Steps 5 and 6: BACKUP_WEAK, JOURNAL_FAILED, and RUN; then the HISTORY requests held are served (R122, R149, R148). -/
def enterRun (s : State) : State :=
  let t := raiseIf (decide (s.provisioning.condition = .valid) && s.journal.failed) .journalFailed
    (raiseIf (decide (s.domain.backup = .weak)) .backupWeak s)
  serveHeldHistory
    { t with supply.power := .run, meter.sampling := true }

/-- The start event, from the kind of start that the clock's time set decides (R130). -/
def start (found : Option Found) (s : State) : State :=
  let warm := s.domain.clock.timeSet && decide (s.provisioning.condition = .valid)
  let t := loadAccount found (startClock found s)
  enterRun (startLevels (if warm then warmCatchUp t else t))

/-- Replay reports its completion and the start event follows (R130). Before replay is complete there is none. -/
def startEvent (s : State) : State :=
  if s.supply.power = .starting ∧ s.supply.givenUp = false then
    match s.supply.replay with
    | .done found => start found s
    | _ => s
  else s

/-! ## RESTART (R131) -/

/-- The RESTART request is served (R131). A body that is not empty is answered BAD_REQUEST before the tests that answer
BUSY (log entry 42). -/
def serveRestart (req : Request) (s : State) : State :=
  if req.body ≠ [] then answerResult req .badRequest s
  else if s.supply.power ≠ .run ∨ s.supply.restartPending = true then answerResult req .busy s
  else if s.provisioning.provisioned then
    if s.journal.failed then answerResult req .notDurable s
    else
      submitTally true
        { s with supply.restartPending := true, supply.restartRequest := some req }
  else
    completeReply ⟨req.id, req.tag, req.kind, [ReplyResult.ok.code], true⟩
      { s with supply.restartPending := true, supply.restartRequest := some req }

/-! ## Loss of supply (R126) -/

/-- The core loses its supply: the flash operation in progress is cut short, and the core goes off (R126, R143). -/
def loseSupply (cut : FlashCut) (s : State) : State :=
  if s.supply.power = .off then s else coreOff (cutOperation cut s)

end Sys2Proof.Machine
end

