-- ==== Sys2Proof/Machine/Requests.lean ====
section
/-! DEFINITION. The requests served by their owners: their bodies judged, their effects, and the reply bodies of Tables 12-7, 12-9, 12-13 and 12-14. -/

namespace Sys2Proof.Machine

/-- A request whose body must be empty: BAD_REQUEST otherwise. -/
def withEmptyBody (req : Request) (serve : State → State) (s : State) : State :=
  if req.body = [] then serve s else answerResult req .badRequest s

/-! ## STATUS (R173, R181, Table 12-7) -/

/-- The account group, offsets 2 to 41. -/
def accountGroup (t : Tariff) (a : Account) : List Byte :=
  [a.state.code] ++ natBytes 4 a.balance ++ natBytes 2 a.debt
    ++ natBytes 4 ((daysRemaining t a).getD 4294967295) ++ natBytes 2 a.graceBudget ++ [boolByte a.graceArmed]
    ++ natBytes 1 a.activeTariff ++ natBytes 1 (a.stagedTariff.getD 0)
    ++ natBytes 6 a.ct ++ natBytes 6 a.ht ++ natBytes 6 a.ft ++ natBytes 6 a.vt

/-- The last relay result, offsets 64 to 67: zeros when absent. -/
def relayOutcomeBytes : Option RelayOutcome → List Byte
  | none => natBytes 4 0
  | some o => natBytes 1 o.kind ++ natBytes 2 o.serial ++ [o.result.code]

/-- The STATUS reply body, each field gathered at this event. -/
def statusBody (s : State) : List Byte :=
  let a := s.account.acct
  let c := s.domain.clock
  ReplyResult.ok.code :: boolByte s.account.loaded ::
    ((if s.account.loaded then accountGroup (tariffOf s.provisioning.settings a.activeTariff) a else natBytes 40 0)
      ++ timeBytes c.time ++ [c.condition.code, c.source.code] ++ natBytes 2 c.hold
      ++ natBytes 2 s.supply.battery ++ natBytes 1 s.supply.shedLevel ++ [s.supply.power.code]
      ++ s.switches.ports.bytes (fun p => [p.state.code]) ++ [s.journal.state.code]
      ++ natBytes 1 s.tokens.intake.length ++ natBytes 1 s.relay.records.length
      ++ natBytes 1 s.relay.receipts.length ++ natBytes 2 s.domain.penalty.waitRemaining
      ++ relayOutcomeBytes s.tokens.lastRelay ++ natBytes 2 s.link.overruns ++ natBytes 2 s.link.errors)

/-- STATUS is served at its arrival (R173). -/
def serveStatus (req : Request) (s : State) : State := withEmptyBody req (fun t => answer req (statusBody t) t) s

/-! ## NOTICES (R172) -/

/-- The NOTICES reply body. -/
def noticesBody (set : BitVec 16) : List Byte := ReplyResult.ok.code :: natBytes 2 set.toNat

/-- NOTICES is served at its arrival: the set is returned and cleared in one event (R172). -/
def serveNotices (req : Request) (s : State) : State :=
  withEmptyBody req (fun t => answer req (noticesBody t.link.notices) { t with link.notices := 0 }) s

/-! ## ENTER_TOKEN (R44, R47) -/

/-- The value of an ASCII decimal digit. -/
def digitValue (b : Byte) : Option Nat :=
  if 48 ≤ b.toNat ∧ b.toNat ≤ 57 then some (b.toNat - 48) else none

/-- The number that ASCII decimal digits stand for, after the digits already read; none at a byte that is no digit. -/
def readDigits : Nat → List Byte → Option Nat
  | acc, [] => some acc
  | acc, b :: rest =>
    match digitValue b with
    | none => none
    | some d => readDigits (acc * 10 + d) rest

/-- The token number of a keypad code: exactly 20 digits, and below 2^66 (R44). -/
def readKeypad (body : List Byte) : Option (BitVec 66) :=
  if body.length = 20 then
    match readDigits 0 body with
    | none => none
    | some n => if n < 2 ^ 66 then some (BitVec.ofNat 66 n) else none
  else none

/-- ENTER_TOKEN at its arrival: decoded, then offered to the intake queue (R44, R47). -/
def serveEnterToken (req : Request) (s : State) : State :=
  match readKeypad req.body with
  | none => answer req (tokenReply .badFormat 0 0 []) s
  | some n =>
    if s.tokens.hasRoom then joinIntake ⟨.keypad req, n⟩ s
    else answer req (tokenReply .intakeFull (tokenKind n) (tokenSerial n) []) s

/-! ## PORT and UNLATCH (R115, R116) -/

/-- A port number 0..3. -/
def portNumber (b : Byte) : Option (Fin 4) := if h : b.toNat < 4 then some ⟨b.toNat, h⟩ else none

/-- The port, demand and duty of a PORT body, the duty taken as at most 1000; none when it is answered BAD_REQUEST
(R115). -/
def readPort (body : List Byte) : Option (Fin 4 × Bool × Nat) :=
  match body with
  | [port, demand, high, low] =>
    match portNumber port with
    | none => none
    | some i => if 1 < demand.toNat then none else some (i, demand = 1, min (bytesNat [high, low]) 1000)
  | _ => none

/-- The PORT reply body (Table 12-14). -/
def portBody (i : Fin 4) (p : Port) : List Byte :=
  ReplyResult.ok.code :: (natBytes 1 i.val ++ [p.state.code, boolByte p.demand] ++ natBytes 2 p.demandDuty
    ++ natBytes 2 p.accountCap ++ natBytes 2 p.shedCap ++ natBytes 2 p.target ++ natBytes 2 p.duty ++ natBytes 1 p.retry)

/-- PORT is served at its arrival (R115). -/
def servePort (req : Request) (s : State) : State :=
  match readPort req.body with
  | none => answerResult req .badRequest s
  | some (i, on, duty) =>
    let t := onPort i (Port.setDemand on duty) s
    answer req (portBody i (t.switches.ports.get i)) t

/-- The UNLATCH reply body (Table 12-14). -/
def unlatchBody (i : Fin 4) (released : Bool) (p : Port) : List Byte :=
  ReplyResult.ok.code :: (natBytes 1 i.val ++ [boolByte released, p.state.code] ++ natBytes 1 p.retry)

/-- The port of an UNLATCH body; none when it is answered BAD_REQUEST (R116). -/
def readUnlatch (body : List Byte) : Option (Fin 4) :=
  match body with
  | [port] => portNumber port
  | _ => none

/-- UNLATCH is served at its arrival (R116). -/
def serveUnlatch (req : Request) (s : State) : State :=
  match readUnlatch req.body with
  | none => answerResult req .badRequest s
  | some i =>
    let released := decide ((s.switches.ports.get i).state = .latched)
    let t := onPort i Port.unlatch s
    answer req (unlatchBody i released (t.switches.ports.get i)) t

/-! ## METER and HISTORY (R98, R148) -/

/-- METER is served once the counts have been restored since the start of the core, and held until then (R98). A body that
is not empty is answered BAD_REQUEST at its arrival, before the restore too, a moment that R98 does not give (log entry
45). -/
def serveMeter (req : Request) (s : State) : State :=
  withEmptyBody req
    (fun t => if t.account.loaded then answerMeter t req else { t with meter.held := t.meter.held ++ [req] }) s

/-- HISTORY is served at its arrival when the flash is idle, and held while an operation is in progress or until replay
completes (R148). A body of another length than 4 is answered BAD_REQUEST at its arrival, where a good one would be held
too, a moment that R148 does not give (log entry 45). -/
def serveHistory (req : Request) (s : State) : State :=
  if req.body.length ≠ 4 then answerResult req .badRequest s
  else if s.supply.power = .run ∧ s.journal.op = .none then answerHistory s req
  else { s with journal.held := s.journal.held ++ [req] }

/-! ## The Relay Store's requests (R154) -/

/-- A CARRY, HANDOFF or RECEIPTS joins the tail of the store's waiting list; it is taken at the end of the event if the
store is free (R154). -/
def serveRelay (req : Request) (s : State) : State := { s with relay.waiting := s.relay.waiting ++ [req] }

/-! ## IDENTITY and CLOCK (R178, R87) -/

/-- The IDENTITY reply body: the numbers are 0 while the record is not VALID (R183). -/
def identityBody (p : Provisioning) : List Byte :=
  ReplyResult.ok.code :: p.condition.code ::
    (natBytes 4 p.settings.kitNumber ++ natBytes 2 p.settings.district
      ++ natBytes 1 (Config.partRevisionLessOne.val + 1))

/-- IDENTITY is served at its arrival (R178). -/
def serveIdentity (req : Request) (s : State) : State :=
  withEmptyBody req (fun t => answer req (identityBody t.provisioning) t) s

/-- The crystal qualification that CLOCK reports: 0 while the source is CRYSTAL (R181). -/
def DayClock.shownQualification (c : DayClock) : Nat :=
  match c.source with
  | .rc => c.qualification
  | .crystal => 0

/-- The CLOCK reply body (Table 12-9). -/
def clockBody (rcTrim : Int) (c : DayClock) : List Byte :=
  ReplyResult.ok.code :: (timeBytes c.time ++ natBytes 1 c.second
    ++ [boolByte c.timeSet, c.condition.code, c.source.code]
    ++ natBytes 2 c.shownQualification ++ natBytes 2 c.hold ++ natBytes 2 c.anchorAge ++ [BitVec.ofInt 8 rcTrim])

/-- CLOCK is served at its arrival (R87). -/
def serveClock (req : Request) (s : State) : State :=
  withEmptyBody req (fun t => answer req (clockBody t.provisioning.settings.rcTrim t.domain.clock) t) s

/-! ## Routing (R168, Table 10-2) -/

/-- Whether NOT_PROVISIONED applies to a request kind (Table 10-2). -/
def RequestKind.needsRecord : RequestKind → Bool
  | .status | .provision | .identity | .restart => false
  | _ => true

/-- Whether BUSY during provisioning applies to a request kind (Table 10-2). -/
def RequestKind.waitsForProvisioning : RequestKind → Bool
  | .status | .identity => false
  | _ => true

/-- A request reaches its owner. -/
def serve (k : RequestKind) (req : Request) (s : State) : State :=
  match k with
  | .status => serveStatus req s
  | .notices => serveNotices req s
  | .enterToken => serveEnterToken req s
  | .port => servePort req s
  | .unlatch => serveUnlatch req s
  | .meter => serveMeter req s
  | .history => serveHistory req s
  | .carry | .handoff | .receipts => serveRelay req s
  | .provision => serveProvision req s
  | .identity => serveIdentity req s
  | .clock => serveClock req s
  | .restart => serveRestart req s

/-- What the link refuses before a request reaches its owner: the first test that applies (R168). -/
def generalRefusal (p : Provisioning) (kind : Byte) : Option ReplyResult :=
  match requestKindOf kind with
  | none => some .unknownRequest
  | some k =>
    if p.inProgress && k.waitsForProvisioning then some .busy
    else if decide (p.condition = .blank ∨ p.condition = .damaged) && k.needsRecord then some .notProvisioned
    else none

/-- A valid frame is routed: refused by the link, or handed to its owner, which serves or holds it (R168, log entry 3). -/
def route (req : Request) (s : State) : State :=
  match generalRefusal s.provisioning req.kind, requestKindOf req.kind with
  | some r, _ => answerResult req r s
  | none, some k => serve k req { s with link.handed := s.link.handed ++ [req.id] }
  | none, none => s

end Sys2Proof.Machine
end

