-- ==== Sys2Proof/Machine/Link.lean ====
section
/-! DEFINITION. The Control Link: the receive ring, the judging of a frame, breaks, the transmit list, and the settling at the end of every event (10). -/

namespace Sys2Proof.Machine

/-! ## The receive ring (R165, R166) -/

/-- The first position of the oldest frame in the ring: of a frame held, or else of one being received. -/
def Link.oldestStart (l : Link) : Option Nat :=
  match l.held, l.reception with
  | h :: _, _ => some h.start
  | [], some r => if r.bytes = [] then none else some r.start
  | [], none => none

/-- The free run: all 512 positions when the ring holds no frame (R166). -/
def Link.freeRun (l : Link) : Nat :=
  match l.oldestStart with
  | none => 512
  | some start => (start + 512 - l.writePos) % 512

/-- The condition of a frame after a character that is stored (R165). -/
def conditionAfter (stopBit : Bool) (c : FrameCondition) : FrameCondition := if stopBit then c else .damaged

/-- A character of a frame whose bytes the ring keeps: the frame is overrun, becomes oversized at its 261st character, or
keeps the character (R166, R167, log entry 17). -/
def Link.storeCharacter (char : Byte) (stopBit : Bool) (r : Reception) (l : Link) : Link :=
  if l.freeRun = 0 then
    { l with reception := some ⟨r.start, r.count + 1, [], .overrun⟩, writePos := r.start }
  else if 260 ≤ r.count then
    { l with reception := some ⟨r.start, r.count + 1, [], .oversized⟩ }
  else
    { l with
      reception := some ⟨r.start, r.count + 1, r.bytes ++ [char], conditionAfter stopBit r.condition⟩
      writePos := (l.writePos + 1) % 512 }

/-- A character arrives while the link reads the line: it begins a frame if none is in reception, and raises its count
(R165). After an overrun, or past 260, it is read and not stored. -/
def Link.character (char : Byte) (stopBit : Bool) (l : Link) : Link :=
  let r := l.reception.getD ⟨l.writePos, 0, [], .good⟩
  match r.condition with
  | .good | .damaged => l.storeCharacter char stopBit r
  | .overrun | .oversized => { l with reception := some { r with count := r.count + 1 } }

/-- A character reaches the line; it is read while receiving is yes (R165). -/
def characterArrives (char : Byte) (stopBit : Bool) (s : State) : State :=
  if s.link.receiving then { s with link := s.link.character char stopBit } else s

/-! ## The end of a frame (R167) -/

/-- A counter of the link with one more, held at 65,535. -/
def countUp (n : Nat) : Nat := min (n + 1) 65535

/-- A frame is discarded and counted as an error. -/
def discardFrame (s : State) : State := { s with link.errors := countUp s.link.errors }

/-- A frame whose bytes stand in the ring is judged by its layout and its check; a valid one is held and routed (R167). -/
def judgeBytes (r : Reception) (s : State) : State :=
  match parseFrame r.bytes with
  | none => discardFrame s
  | some (tag, kind, body) =>
    let id := s.link.nextId
    route ⟨id, tag, kind, body⟩
      { s with link.held := s.link.held ++ [⟨id, r.start, r.bytes⟩], link.nextId := id + 1 }

/-- The line has been idle for 4 character times: the frame in reception ends and is judged (R165, R167). -/
def frameEnds (s : State) : State :=
  match s.link.reception with
  | none => s
  | some r =>
    let t := { s with link.reception := none }
    match r.condition with
    | .overrun => raise .linkOverrun { t with link.overruns := countUp t.link.overruns }
    | .oversized | .damaged => discardFrame t
    | .good => judgeBytes r t

/-- A frame's characters arrive, each with its stop bit. -/
def charactersArrive (bytes : List Byte) (s : State) : State :=
  bytes.foldl (fun t b => characterArrives b true t) s

/-- The whole frame of a request arrives: its characters and the idle gap after them (log entry 2). -/
def receiveFrame (tag kind : Byte) (body : List Byte) (s : State) : State :=
  frameEnds (charactersArrive (frameBytes tag kind body) s)

/-! ## Breaks (R170) -/

/-- Whether a frame of the transmit list is the reply OK to a RESTART. -/
def TxFrame.restarts : TxFrame → Bool
  | .reply r => r.restarts
  | .notice _ => false

/-- Whether the reply OK to a RESTART has been queued or completed and not yet sent (R131). -/
def Link.restartQueued (l : Link) : Bool := l.transmit.any TxFrame.restarts || l.completed.any Reply.restarts

/-- What a break makes of the link (R170). -/
def Link.break (l : Link) : Link :=
  { l with
    receiving := false, held := [], writePos := 0, reception := none, transmit := [], onLine := none,
    completed := [], cancelled := l.cancelled ++ l.handed, handed := [] }

/-- A break is taken while the link reads the line. A RESTART whose reply had been queued restarts the core (R170, R131). -/
def breakTaken (s : State) : State :=
  if s.link.receiving then
    let t := { s with link := s.link.break }
    if s.link.restartQueued then coreRestart t else t
  else s

/-- Whether the core is up and not in holdover. -/
def Power.awake : Power → Bool
  | .starting | .run => true
  | .holdover | .off => false

/-- The line has been idle for 4 character times after a break: reception resumes, and one NOTICE frame is queued if the
set is not empty (R170). -/
def breakEnds (s : State) : State :=
  if s.supply.power.awake && !s.link.receiving then
    let l := { s.link with receiving := true }
    { s with link := if l.notices = 0 then l else l.queueNotice }
  else s

/-! ## Transmission (R169, R171) -/

/-- Sending begins with the oldest frame of a list: a NOTICE frame takes the set as it stands, and is withdrawn when the
set is empty (R171). -/
def beginSending (set : BitVec 16) : List TxFrame → List TxFrame × Option (List Byte)
  | [] => ([], none)
  | .reply r :: rest => (.reply r :: rest, some (frameBytes r.tag r.kind r.body))
  | .notice (some x) :: rest => (.notice (some x) :: rest, some (noticeBytes x))
  | .notice none :: rest =>
    if set = 0 then beginSending set rest else (.notice (some set) :: rest, some (noticeBytes set))

/-- The link begins to send when it is free and receiving is yes (R169, R171). -/
def Link.pump (l : Link) : Link :=
  if l.receiving && decide (l.onLine = none) then
    let r := beginSending l.notices l.transmit
    { l with transmit := r.1, onLine := r.2 }
  else l

/-- The oldest completed reply moves into the transmit list, and its request's bytes are released (R169). -/
def Link.promote (l : Link) : Link :=
  match l.completed with
  | [] => l
  | r :: rest =>
    { l with completed := rest, transmit := l.transmit ++ [TxFrame.reply r] : Link }.release r.id

/-- The last byte of the frame being sent has been sent: the frame leaves the list, and after the reply to a RESTART the
core restarts (R169, R131). -/
def frameLeaves (s : State) : State :=
  match s.link.onLine, s.link.transmit with
  | some _, x :: rest =>
    let l := { s.link with transmit := rest, onLine := none }
    match x with
    | .notice _ => { s with link := l }
    | .reply r => if r.restarts then coreRestart { s with link := l } else { s with link := l.promote }
  | _, _ => s

/-! ## The end of an event (log entry 14) -/

/-- The Token Unit takes what it can from its intake. -/
def settleTokens (s : State) : State := serveTokens s.tokens.intake.length s

/-- The Relay Store takes what it can from its waiting list. -/
def settleStore (s : State) : State := serveStore s.relay.waiting.length s

/-- The two units that make digest requests take up their waiting work, in the order named. -/
def settleUnits (order : DigestOrder) (s : State) : State :=
  match order with
  | .tokenFirst => settleStore (settleTokens s)
  | .storeFirst => settleTokens (settleStore s)

/-- At the end of every event the Token Unit and the Relay Store take up waiting work, the journal begins its next
operation, and the link begins to send (R48, R154, R135, R169). -/
def finish (order : DigestOrder) (s : State) : State :=
  let t := journalGoOn (settleUnits order s)
  { t with link := t.link.pump }

/-! ## Idle time (log entry 6) -/

/-- A millisecond of time-base time passes for the timers kept in the state and for the watch on the crystal; whether a
crystal edge arrives in it is free. -/
def millisecond (s : State) : State :=
  let t := { onPorts Port.tick s with idleMilliseconds := s.idleMilliseconds + 1 }
  if t.domain.powered then { t with domain := t.domain.tick (Config.crystalEdge s.idleMilliseconds) } else t

end Sys2Proof.Machine
end

