-- ==== Sys2Proof/Machine/ClockEvents.lean ====
section
/-! DEFINITION. The meanings of the second, of the crystal's events and of the end of a penalty wait (04, 3.6). -/

namespace Sys2Proof.Machine

/-- SECOND_EVENT (R73, R91, R120, R122, R123, R127). -/
def execSecondEvent (x : Sample) (s : State) : Host.Outcome State Fault Refusal := .next (finish .tokenFirst (secondArrives x s))

/-- CRYSTAL_QUALIFIED (R77). -/
def execCrystalQualified (s : State) : Host.Outcome State Fault Refusal := .next (finish .tokenFirst (crystalQualify s))

/-- CRYSTAL_GAP (R78). -/
def execCrystalGap (s : State) : Host.Outcome State Fault Refusal := .next (finish .tokenFirst (crystalFail s))

/-- CRYSTAL_QUALIFICATION_RESET (R77). -/
def execCrystalQualificationReset (s : State) : Host.Outcome State Fault Refusal :=
  .next (finish .tokenFirst (qualificationReset s))

/-- The penalty wait ends: its last second falls, and the wait remaining is 0 (R67). With another number of seconds
remaining the wait does not end, and the command changes nothing (log entries 4 and 5). -/
def penaltyWaitEnds (s : State) : State :=
  if s.domain.powered && decide (s.domain.penalty.waitRemaining = 1) then
    { s with domain.penalty := s.domain.penalty.second }
  else s

/-- PENALTY_WAIT_END (R67). -/
def execPenaltyWaitEnd (s : State) : Host.Outcome State Fault Refusal := .next (finish .tokenFirst (penaltyWaitEnds s))

end Sys2Proof.Machine
end

