-- ==== Sys2Proof/Machine/DigestEvents.lean ====
section
/-! DEFINITION. The meanings of the four completions of the Keyed Digest Unit (3.7). -/

namespace Sys2Proof.Machine

/-- TOKEN_CHECK_DIGEST_DONE (R51). -/
def execTokenCheckDigestDone (s : State) : Host.Outcome State Fault Refusal := .next (finish .tokenFirst (tokenDigestDone s))

/-- RECEIPT_ENVELOPE_DONE (R65, R158). -/
def execReceiptEnvelopeDone (s : State) : Host.Outcome State Fault Refusal := .next (finish .tokenFirst (receiptDigestDone s))

/-- ITEM_ENVELOPE_CHECK_DONE (R155). -/
def execItemEnvelopeCheckDone (order : DigestOrder) (s : State) : Host.Outcome State Fault Refusal :=
  .next (finish order (itemDigestDone order s))

/-- ENVELOPE_RENEWAL_DONE (R156). -/
def execEnvelopeRenewalDone (s : State) : Host.Outcome State Fault Refusal := .next (finish .tokenFirst (renewalDigestDone s))

end Sys2Proof.Machine
end

