-- ==== Sys2Proof/Machine/JournalEvents.lean ====
section
/-! DEFINITION. The meanings of the ends of flash work and of programming (08, 11). -/

namespace Sys2Proof.Machine

/-- JOURNAL_WRITE_END (R138, R140). -/
def execJournalWriteEnd (verify : Bool) (s : State) : Host.Outcome State Fault Refusal :=
  .next (finish .tokenFirst (writeEnd verify s))

/-- SECTOR_ERASE_END (R139, R141). -/
def execSectorEraseEnd (verify : Bool) (left : List SlotLeft) (s : State) : Host.Outcome State Fault Refusal :=
  .next (finish .tokenFirst (eraseEnd verify left s))

/-- PROGRAMMING_END (R177). -/
def execProgrammingEnd (verify : Bool) (s : State) : Host.Outcome State Fault Refusal :=
  .next (finish .tokenFirst (programmingDone verify s))

end Sys2Proof.Machine
end

