-- ==== Sys2Proof/Machine/LinkEvents.lean ====
section
/-! DEFINITION. The meanings of the five events of the line (10). -/

namespace Sys2Proof.Machine

/-- CHARACTER_RECEIVED (R165, R166). -/
def execCharacterReceived (char : Byte) (stopBit : Bool) (s : State) : Host.Outcome State Fault Refusal :=
  .next (finish .tokenFirst (characterArrives char stopBit s))

/-- FRAME_END (R167, R168). -/
def execFrameEnd (s : State) : Host.Outcome State Fault Refusal := .next (finish .tokenFirst (frameEnds s))

/-- BREAK (R170). -/
def execBreak (s : State) : Host.Outcome State Fault Refusal := .next (finish .tokenFirst (breakTaken s))

/-- BREAK_END (R170). -/
def execBreakEnd (s : State) : Host.Outcome State Fault Refusal := .next (finish .tokenFirst (breakEnds s))

/-- FRAME_SENT (R169). -/
def execFrameSent (s : State) : Host.Outcome State Fault Refusal := .next (finish .tokenFirst (frameLeaves s))

end Sys2Proof.Machine
end

