-- ==== Sys2Proof/Machine/PortEvents.lean ====
section
/-! DEFINITION. The meanings of the ports' events (06). -/

namespace Sys2Proof.Machine

/-- TRIP (R111). -/
def execTrip (p : Fin 4) (current : Nat) (s : State) : Host.Outcome State Fault Refusal :=
  .next (finish .tokenFirst (tripPort p current s))

/-- RAMP_STEP (R109). -/
def execRampStep (p : Fin 4) (s : State) : Host.Outcome State Fault Refusal :=
  .next (finish .tokenFirst (onPort p Port.rampStep s))

/-- TRIP_WAIT_END (R112). -/
def execTripWaitEnd (p : Fin 4) (s : State) : Host.Outcome State Fault Refusal :=
  .next (finish .tokenFirst (onPort p Port.tripWaitEnd s))

/-- ON_RUN_COMPLETE (R114). -/
def execOnRunComplete (p : Fin 4) (s : State) : Host.Outcome State Fault Refusal :=
  .next (finish .tokenFirst (onPort p Port.onRunComplete s))

end Sys2Proof.Machine
end

