-- ==== Sys2Proof/Machine/PowerEvents.lean ====
section
/-! DEFINITION. The meanings of the start event and of the events of power (07, R72). -/

namespace Sys2Proof.Machine

/-- START_EVENT (R130). -/
def execStartEvent (order : DigestOrder) (s : State) : Host.Outcome State Fault Refusal := .next (finish order (startEvent s))

/-- SUPPLY_LOSS (R126). -/
def execSupplyLoss (cut : FlashCut) (s : State) : Host.Outcome State Fault Refusal :=
  .next (finish .tokenFirst (loseSupply cut s))

/-- The clock domain is powered: it holds the fresh values of R72. -/
def domainPowersUp (s : State) : State := if s.domain.powered then s else { s with domain := .fresh }

/-- CLOCK_DOMAIN_POWER_UP (R72). -/
def execClockDomainPowerUp (s : State) : Host.Outcome State Fault Refusal := .next (finish .tokenFirst (domainPowersUp s))

/-- The clock domain loses its power, and with it the core its supply (R72, log entry 28). -/
def domainPowersDown (cut : FlashCut) (s : State) : State :=
  { loseSupply cut s with domain := .off }

/-- CLOCK_DOMAIN_POWER_LOSS (R72). -/
def execClockDomainPowerLoss (cut : FlashCut) (s : State) : Host.Outcome State Fault Refusal :=
  .next (finish .tokenFirst (domainPowersDown cut s))

/-- The core is powered while it is off and its clock domain is powered (R127, R128). -/
def corePowersUp (s : State) : State :=
  if s.supply.power = .off ∧ s.domain.powered = true then corePowerUp s else s

/-- CORE_POWER_UP (R128). -/
def execCorePowerUp (s : State) : Host.Outcome State Fault Refusal := .next (finish .tokenFirst (corePowersUp s))

end Sys2Proof.Machine
end

