-- ==== Sys2Proof/Machine/RequestEvents.lean ====
section
/-! DEFINITION. The meanings of the fourteen requests (Table 10-2): each is its frame on the line, received, judged, routed and served. -/

namespace Sys2Proof.Machine

/-- A request's whole frame arrives on the line, and the event settles (log entry 2). -/
def requestArrives (k : RequestKind) (tag : Byte) (body : List Byte) (s : State) : State :=
  finish .tokenFirst (receiveFrame tag k.code body s)

/-- STATUS (R173). -/
def execStatus (tag : Byte) (body : List Byte) (s : State) : Host.Outcome State Fault Refusal :=
  .next (requestArrives .status tag body s)

/-- NOTICES (R172). -/
def execNotices (tag : Byte) (body : List Byte) (s : State) : Host.Outcome State Fault Refusal :=
  .next (requestArrives .notices tag body s)

/-- ENTER_TOKEN (R44, R47). -/
def execEnterToken (tag : Byte) (body : List Byte) (s : State) : Host.Outcome State Fault Refusal :=
  .next (requestArrives .enterToken tag body s)

/-- PORT (R115). -/
def execPort (tag : Byte) (body : List Byte) (s : State) : Host.Outcome State Fault Refusal :=
  .next (requestArrives .port tag body s)

/-- UNLATCH (R116). -/
def execUnlatch (tag : Byte) (body : List Byte) (s : State) : Host.Outcome State Fault Refusal :=
  .next (requestArrives .unlatch tag body s)

/-- METER (R98). -/
def execMeter (tag : Byte) (body : List Byte) (s : State) : Host.Outcome State Fault Refusal :=
  .next (requestArrives .meter tag body s)

/-- HISTORY (R148). -/
def execHistory (tag : Byte) (body : List Byte) (s : State) : Host.Outcome State Fault Refusal :=
  .next (requestArrives .history tag body s)

/-- CARRY (R155). -/
def execCarry (tag : Byte) (body : List Byte) (s : State) : Host.Outcome State Fault Refusal :=
  .next (requestArrives .carry tag body s)

/-- HANDOFF (R159). -/
def execHandoff (tag : Byte) (body : List Byte) (s : State) : Host.Outcome State Fault Refusal :=
  .next (requestArrives .handoff tag body s)

/-- RECEIPTS (R160). -/
def execReceipts (tag : Byte) (body : List Byte) (s : State) : Host.Outcome State Fault Refusal :=
  .next (requestArrives .receipts tag body s)

/-- PROVISION (R176, R177). -/
def execProvision (tag : Byte) (body : List Byte) (s : State) : Host.Outcome State Fault Refusal :=
  .next (requestArrives .provision tag body s)

/-- IDENTITY (R178). -/
def execIdentity (tag : Byte) (body : List Byte) (s : State) : Host.Outcome State Fault Refusal :=
  .next (requestArrives .identity tag body s)

/-- CLOCK (R87). -/
def execClock (tag : Byte) (body : List Byte) (s : State) : Host.Outcome State Fault Refusal :=
  .next (requestArrives .clock tag body s)

/-- RESTART (R131). -/
def execRestart (tag : Byte) (body : List Byte) (s : State) : Host.Outcome State Fault Refusal :=
  .next (requestArrives .restart tag body s)

end Sys2Proof.Machine
end

