-- ==== Sys2Proof/Machine/Dispatch.lean ====
section
/-! DEFINITION. The meaning of each command of the opcode table, one arm each. -/

namespace Sys2Proof.Machine

/-- The effect of a command on everything but the queue. -/
def exec (i : Instr) (s : State) : Host.Outcome State Fault Refusal :=
  match i with
  | .status tag body => Sys2Proof.Machine.execStatus tag body s
  | .notices tag body => Sys2Proof.Machine.execNotices tag body s
  | .enterToken tag body => Sys2Proof.Machine.execEnterToken tag body s
  | .port tag body => Sys2Proof.Machine.execPort tag body s
  | .unlatch tag body => Sys2Proof.Machine.execUnlatch tag body s
  | .meter tag body => Sys2Proof.Machine.execMeter tag body s
  | .history tag body => Sys2Proof.Machine.execHistory tag body s
  | .carry tag body => Sys2Proof.Machine.execCarry tag body s
  | .handoff tag body => Sys2Proof.Machine.execHandoff tag body s
  | .receipts tag body => Sys2Proof.Machine.execReceipts tag body s
  | .provision tag body => Sys2Proof.Machine.execProvision tag body s
  | .identity tag body => Sys2Proof.Machine.execIdentity tag body s
  | .clock tag body => Sys2Proof.Machine.execClock tag body s
  | .restart tag body => Sys2Proof.Machine.execRestart tag body s
  | .characterReceived char stopBit => Sys2Proof.Machine.execCharacterReceived char stopBit s
  | .frameEnd => Sys2Proof.Machine.execFrameEnd s
  | .lineBreak => Sys2Proof.Machine.execBreak s
  | .lineBreakEnd => Sys2Proof.Machine.execBreakEnd s
  | .frameSent => Sys2Proof.Machine.execFrameSent s
  | .secondEvent x => Sys2Proof.Machine.execSecondEvent x s
  | .crystalQualified => Sys2Proof.Machine.execCrystalQualified s
  | .crystalGap => Sys2Proof.Machine.execCrystalGap s
  | .crystalQualificationReset => Sys2Proof.Machine.execCrystalQualificationReset s
  | .trip p current => Sys2Proof.Machine.execTrip p current s
  | .rampStep p => Sys2Proof.Machine.execRampStep p s
  | .tripWaitEnd p => Sys2Proof.Machine.execTripWaitEnd p s
  | .onRunComplete p => Sys2Proof.Machine.execOnRunComplete p s
  | .penaltyWaitEnd => Sys2Proof.Machine.execPenaltyWaitEnd s
  | .tokenCheckDigestDone => Sys2Proof.Machine.execTokenCheckDigestDone s
  | .receiptEnvelopeDone => Sys2Proof.Machine.execReceiptEnvelopeDone s
  | .itemEnvelopeCheckDone order => Sys2Proof.Machine.execItemEnvelopeCheckDone order s
  | .envelopeRenewalDone => Sys2Proof.Machine.execEnvelopeRenewalDone s
  | .journalWriteEnd verify => Sys2Proof.Machine.execJournalWriteEnd verify s
  | .sectorEraseEnd verify left => Sys2Proof.Machine.execSectorEraseEnd verify left s
  | .programmingEnd verify => Sys2Proof.Machine.execProgrammingEnd verify s
  | .startEvent order => Sys2Proof.Machine.execStartEvent order s
  | .supplyLoss cut => Sys2Proof.Machine.execSupplyLoss cut s
  | .clockDomainPowerUp => Sys2Proof.Machine.execClockDomainPowerUp s
  | .clockDomainPowerLoss cut => Sys2Proof.Machine.execClockDomainPowerLoss cut s
  | .corePowerUp => Sys2Proof.Machine.execCorePowerUp s

end Sys2Proof.Machine
end

