-- ==== Sys2Proof/Machine/Step.lean ====
section
/-! DEFINITION. The step: the command at the front of the queue is taken; on an empty queue a millisecond passes. -/

namespace Sys2Proof.Machine

/-- A command put at the front of the queue, where one is spelled. -/
def State.withCommand (s : State) : Option Instr → State
  | none => s
  | some c => { s with pending := c :: s.pending }

/-- The state with the command that a word spells at the front of the queue. No word spells one (see
decodeTableWord), so it is the state itself. -/
def State.withFetchWord (s : State) (nbits w : Nat) : State := s.withCommand (decodeTableWord nbits w)

/-- One step. On an empty queue one millisecond of time-base time passes (log entry 6). -/
def step (s : State) : Host.Outcome State Fault Refusal :=
  match s.pending with
  | [] => .next (millisecond s)
  | c :: rest => exec c { s with pending := rest }

end Sys2Proof.Machine
end

