-- ==== Sys2Proof/Safety.lean ====
section
/-! DEFINITION. What the claims speak of: the invariants of the part, the rest it comes to after every event, and the conditions under which a request reaches its owner and is answered. -/

namespace Sys2Proof.Machine

/-! ## Rest after an event -/

/-- Every unit has taken up what it could: no token waits on an idle Token Unit in RUN (R48), no request on a free store
with the clock set (R154), and no entry on a journal that can write (R135). -/
abbrev UnitsSettled (s : State) : Prop :=
  (s.supply.power = .run ∧ s.tokens.service = .idle → s.tokens.intake = [])
    ∧ (s.relay.service = none ∧ s.domain.clock.timeSet = true → s.relay.waiting = [])
    ∧ (s.journal.failed = false ∧ s.journal.flushWait = false ∧ s.journal.op = .none → s.journal.queue = [])

/-- The link has begun to send what it could: no frame waits on an idle line that is read (R169). -/
abbrev LinkSettled (l : Link) : Prop := l.receiving = true ∧ l.onLine = none → l.transmit = []

/-- The units and the link are settled. -/
abbrev Settled (s : State) : Prop := UnitsSettled s ∧ LinkSettled s.link

/-! ## Invariants -/

/-- The numbers the model gives to frames are fresh (log entry 38). -/
abbrev IdsOk (s : State) : Prop :=
  (∀ h ∈ s.link.held, h.id < s.link.nextId)
    ∧ (∀ i ∈ s.link.handed, i < s.link.nextId)
    ∧ (∀ i ∈ s.link.cancelled, i < s.link.nextId)

/-- The lists with a stated capacity: intake (R47), relay records (R150), receipts (R151), replies of the transmit list
(R169). -/
abbrev Capacity (s : State) : Prop :=
  s.tokens.intake.length ≤ 4 ∧ s.relay.records.length ≤ 48 ∧ s.relay.receipts.length ≤ 32
    ∧ s.link.replyCount ≤ 4

/-- The hop count an item carries; a receipt carries none. -/
def RelayItem.hopCount : RelayItem → Nat
  | .token _ _ _ _ hop _ => hop
  | .receipt _ _ _ _ => 0

/-- The relay lists hold no two records of one destination and serial and no two receipts of one kit and serial (R150,
R151); hop, offer and hand counts stay in their ranges (Tables 9-1 and 9-2), and so do the hop counts of the items of the
CARRY in service (R155). -/
abbrev RelayOk (x : RelayStore) : Prop :=
  x.records.Pairwise (fun a b => ¬(a.destination = b.destination ∧ tokenSerial a.token = tokenSerial b.token))
    ∧ x.receipts.Pairwise (fun a b => ¬(a.kit = b.kit ∧ a.serial = b.serial))
    ∧ (∀ r ∈ x.records, r.hop ≤ 6 ∧ r.offers ≤ 5)
    ∧ (∀ r ∈ x.receipts, r.hands ≤ 2)
    ∧ (∀ c ∈ x.service, ∀ item ∈ c.items, item.hopCount ≤ 7)

/-- What each port state promises of a port while the block is switching (R104, Tables 6-3 and 6-4). -/
abbrev PortOk (p : Port) : Prop :=
  p.target = p.wanted ∧ p.demandDuty ≤ 1000 ∧ p.retry ≤ 3
    ∧ (p.state = .idle → p.demand = false ∧ p.duty = 0)
    ∧ (p.state = .barred → p.demand = true ∧ p.target = 0 ∧ p.duty = 0)
    ∧ (p.state = .ramping → p.demand = true ∧ p.duty < p.target)
    ∧ (p.state = .on → p.demand = true ∧ p.duty = p.target ∧ 0 < p.target)
    ∧ (p.state = .tripWait → p.demand = true ∧ p.duty = 0)
    ∧ (p.state = .latched → p.duty = 0)

/-- Every port keeps its state's promises while the block is switching. -/
abbrev PortsOk (s : State) : Prop :=
  s.switches.switching = true →
    PortOk s.switches.ports.p0 ∧ PortOk s.switches.ports.p1 ∧ PortOk s.switches.ports.p2 ∧ PortOk s.switches.ports.p3

/-- The account's rules: the law of the lifetime counters (R3), what each state permits (R1, Table 1-2), the ranges of
balance, debt, grace budget and remainders (R2, R5, R7, R10). -/
abbrev AccountOk (a : Account) : Prop :=
  a.balance + a.ht + a.vt = a.debt + a.ct + a.ft
    ∧ (a.balance = 0 ∨ a.debt = 0)
    ∧ (a.state = .unprovisioned → a.balance = 0 ∧ a.debt = 0)
    ∧ (a.state = .locked → a.balance = 0)
    ∧ (a.state = .active → 0 < a.balance)
    ∧ (a.state = .grace → a.balance = 0)
    ∧ (a.state = .paidOff → a.debt = 0)
    ∧ (a.state ≠ .grace → a.graceBudget = 0)
    ∧ a.balance ≤ 9999999 ∧ a.debt ≤ 50000 ∧ a.graceBudget ≤ 10080 ∧ a.rs < 96 ∧ a.re < 1000000

/-- The record's fields that bear on the account lie in their ranges (R176, Table 2-1). -/
abbrev SettingsOk (f : Settings) : Prop :=
  f.initialCredit ≤ 100000 ∧ ∀ t ∈ f.tariffs, t.debtLimit ≤ 50000 ∧ t.graceDays ≤ 7

/-- The account in an entry waiting to be written. -/
def QueuedOk : Queued → Prop
  | .token t => AccountOk t.snapshot
  | .tally _ => True
  | .suspend => True

/-- The account in a slot, and the bytes the slot holds, which are those of its entry (R182). -/
def SlotOk : Slot → Prop
  | .entry e image => AccountOk e.snapshot ∧ image = slotImage e
  | .damaged => True
  | .blank => True

/-- The account in an entry being written. -/
def OpOk : FlashOp → Prop
  | .write e => AccountOk e.snapshot
  | .head e => AccountOk e.snapshot
  | .none => True
  | .erase _ => True

/-- The account a replay's move-on carries. -/
def WorkOk : JournalWork → Prop
  | .replay found => AccountOk found.acct
  | .ordinary => True
  | .ringErase => True
  | .ringHead => True

/-- The account a replay has found. -/
def ReplayOk : Replay → Prop
  | .done (some found) => AccountOk found.acct
  | .done none => True
  | .notAsked => True
  | .working => True

/-- The record's fields as they stand in the memory. -/
def OtpOk : Otp → Prop
  | .written f _ => SettingsOk f
  | .blank => True
  | .spoiled => True

/-- The record's fields being programmed. -/
def PhaseOk : ProvisioningPhase → Prop
  | .programming f => SettingsOk f
  | .idle => True
  | .ring => True

/-- The account's rules hold of the account and of every copy of it the part keeps: in the write queue, in the slot being
written, in flash and in replay; and the record's ranges hold. -/
structure AccountsOk (s : State) : Prop where
  otp : OtpOk s.provisioning.otp
  phase : PhaseOk s.provisioning.phase
  acct : AccountOk s.account.acct
  queue : ∀ q ∈ s.journal.queue, QueuedOk q
  op : OpOk s.journal.op
  work : WorkOk s.journal.work
  flash : ∀ x ∈ s.flash, SlotOk x.2
  replay : ReplayOk s.supply.replay

/-- What goes with the power state: the switches switch while the core is awake (R118), the meter samples in RUN alone
(R91), the line is read only while the core is awake (R165), and the account is loaded in RUN (R130). -/
abbrev PowerOk (s : State) : Prop :=
  (s.supply.power.awake = true → s.switches.switching = true)
    ∧ (s.meter.sampling = true ↔ s.supply.power = .run)
    ∧ (s.link.receiving = true → s.supply.power.awake = true)
    ∧ (s.supply.power = .run → s.account.loaded = true)

/-! ## Requests -/

/-- The command of a request kind. -/
def requestOf (k : RequestKind) (tag : Byte) (body : List Byte) : Instr :=
  match k with
  | .status => .status tag body
  | .notices => .notices tag body
  | .enterToken => .enterToken tag body
  | .port => .port tag body
  | .unlatch => .unlatch tag body
  | .meter => .meter tag body
  | .history => .history tag body
  | .carry => .carry tag body
  | .handoff => .handoff tag body
  | .receipts => .receipts tag body
  | .provision => .provision tag body
  | .identity => .identity tag body
  | .clock => .clock tag body
  | .restart => .restart tag body

/-- The decimal digits of a number as ASCII characters, `n` of them, most significant first (R180). -/
def asciiDigits : Nat → Nat → List Byte
  | 0, _ => []
  | n + 1, v => BitVec.ofNat 8 (48 + v / 10 ^ n % 10) :: asciiDigits n v

/-- A request's frame finds room in the ring, a line that is read and no frame in reception (R165, R166). -/
abbrev RoomFor (body : List Byte) (s : State) : Prop :=
  s.link.receiving = true ∧ s.link.reception = none ∧ body.length ≤ 255 ∧ body.length + 5 ≤ s.link.freeRun

/-- The part is at rest with its core up, its frame numbers are fresh, and a request's frame finds room. -/
abbrev Ready (body : List Byte) (s : State) : Prop :=
  RoomFor body s ∧ s.supply.power.awake = true ∧ Settled s ∧ IdsOk s

/-- The link hands a request of a kind to its owner: none of the three refusals applies (R168). -/
abbrev Admitted (k : RequestKind) (s : State) : Prop := generalRefusal s.provisioning k.code = none

/-- The frame of a request as the ring holds it. -/
def arrivedFrame (k : RequestKind) (tag : Byte) (body : List Byte) (l : Link) : HeldFrame :=
  ⟨l.nextId, l.writePos, frameBytes tag k.code body⟩

/-- The request that a frame brings. -/
def arrivedRequest (k : RequestKind) (tag : Byte) (body : List Byte) (l : Link) : Request :=
  ⟨l.nextId, tag, k.code, body⟩

/-- The part with a request's frame received and held, and not yet routed (R166, R167). -/
def withFrame (k : RequestKind) (tag : Byte) (body : List Byte) (s : State) : State :=
  { s with link := { s.link with
    held := s.link.held ++ [arrivedFrame k tag body s.link]
    writePos := (s.link.writePos + body.length + 5) % 512
    nextId := s.link.nextId + 1 } }

/-- The replies of the transmit list, oldest first. -/
def Link.replies (l : Link) : List Reply :=
  l.transmit.filterMap (fun x => match x with
    | .reply r => some r
    | .notice _ => none)

/-- What every request that has arrived leaves of the link's other fields. -/
abbrev LinkKept (body : List Byte) (l m : Link) : Prop :=
  m.receiving = true ∧ m.reception = none ∧ m.writePos = (l.writePos + body.length + 5) % 512
    ∧ m.cancelled = l.cancelled ∧ m.overruns = l.overruns ∧ m.errors = l.errors ∧ m.nextId = l.nextId + 1

/-- A request that has arrived is answered: its reply joins the transmit list and its bytes leave the ring, or, when the
list holds four, the reply waits among the completed ones and its bytes stay (R169). -/
abbrev Answered (k : RequestKind) (tag : Byte) (body reply : List Byte) (restarts : Bool) (l m : Link) : Prop :=
  LinkKept body l m ∧ m.handed = l.handed
    ∧ (if l.replyCount < 4 then
        m.replies = l.replies ++ [⟨l.nextId, tag, k.code, reply, restarts⟩]
          ∧ m.completed = l.completed ∧ m.held = l.held
      else
        m.replies = l.replies ∧ m.completed = l.completed ++ [⟨l.nextId, tag, k.code, reply, restarts⟩]
          ∧ m.held = l.held ++ [arrivedFrame k tag body l])

/-- A request that has arrived is kept by its owner: it is handed and unanswered, and its bytes stay in the ring (R169). -/
abbrev KeptByOwner (k : RequestKind) (tag : Byte) (body : List Byte) (l m : Link) : Prop :=
  LinkKept body l m ∧ m.handed = l.handed ++ [l.nextId] ∧ m.replies = l.replies
    ∧ m.completed = l.completed ∧ m.held = l.held ++ [arrivedFrame k tag body l]

/-- The ranges of the record's fields in a PROVISION body, each with its offset, its bytes, its lowest and its highest
value (Tables 11-1 and 12-11). -/
def recordRanges : List (Nat × Nat × Nat × Nat) :=
  [(0, 4, 1, 4294967294), (4, 2, 1, 65535), (38, 1, 0, 7), (39, 4, 0, 100000), (45, 2, 0, 1439), (47, 2, 100, 8000),
    (49, 2, 100, 8000), (51, 2, 100, 8000), (53, 2, 100, 8000), (55, 1, 1, 3), (56, 1, 1, 3), (57, 1, 1, 3),
    (58, 1, 1, 3), (59, 2, 0, 20000), (61, 2, 0, 20000), (63, 2, 0, 20000), (65, 2, 100, 1000), (67, 1, 0, 7),
    (68, 2, 400, 2000), (70, 1, 30, 120)]

/-- The ranges of a tariff entry's fields, each with its offset in the entry (Tables 2-1 and 12-12). -/
def tariffRanges : List (Nat × Nat × Nat × Nat) :=
  [(0, 1, 1, 255), (1, 3, 0, 100000), (4, 2, 0, 50000), (6, 2, 0, 50000), (8, 2, 0, 50000), (10, 2, 0, 50000),
    (12, 3, 0, 2000000), (15, 2, 0, 1000), (17, 2, 0, 50000)]

/-- A field of a PROVISION body that stands at an offset is out of its range: a number outside its bounds, an RC trim of
−128, a set bit where the catch-up byte has none, or an empty port set (R176, R183). -/
abbrev FieldOutOfRange (body : List Byte) (o : Nat) : Prop :=
  (∃ x ∈ recordRanges, o = x.1 ∧ (fieldAt body o x.2.1 < x.2.2.1 ∨ x.2.2.2 < fieldAt body o x.2.1))
    ∨ (o = 71 ∧ fieldAt body o 1 = 128)
    ∨ (∃ i < 8,
        (∃ x ∈ tariffRanges, o = 72 + 21 * i + x.1
          ∧ (fieldAt body o x.2.1 < x.2.2.1 ∨ x.2.2.2 < fieldAt body o x.2.1))
        ∨ (o = 72 + 21 * i + 19 ∧ (fieldAt body o 1).testBit 6 = true)
        ∨ (o = 72 + 21 * i + 20 ∧ fieldAt body o 1 % 16 = 0))

/-- The bytes of a CARRY's item from its type on lie in their ranges: a token item's 23 with a destination of 1 to
4,294,967,294 and a hop count of at most 7, or a receipt item's 13 with such a kit number and a serial above 0 (R155, R180,
Table 12-6). -/
abbrev ItemInRange (b : List Byte) : Prop :=
  (b.length = 23 ∧ fieldAt b 0 1 = 1 ∧ 1 ≤ fieldAt b 1 4 ∧ fieldAt b 1 4 ≤ 4294967294 ∧ fieldAt b 18 1 ≤ 7)
    ∨ (b.length = 13 ∧ fieldAt b 0 1 = 2 ∧ 1 ≤ fieldAt b 1 4 ∧ fieldAt b 1 4 ≤ 4294967294 ∧ fieldAt b 5 2 ≠ 0)

/-- The item that such bytes spell; the token number is the low 66 bits of its nine bytes (R180, Table 12-6). -/
def spelledItem (b : List Byte) : RelayItem :=
  if fieldAt b 0 1 = 1 then
    .token (fieldAt b 1 4) (BitVec.ofNat 66 (fieldAt b 5 9)) (fieldAt b 14 2) (fieldAt b 16 2) (fieldAt b 18 1)
      (BitVec.ofNat 32 (fieldAt b 19 4))
  else .receipt (fieldAt b 1 4) (fieldAt b 5 2) (fieldAt b 7 2) (BitVec.ofNat 32 (fieldAt b 9 4))

/-! ## The journal -/

/-- A clock time is later than another (Section 4.1). -/
abbrev After (a b : ClockTime) : Prop := b.day < a.day ∨ (a.day = b.day ∧ b.minute < a.minute)

/-- A sector's erase has failed its verify: each of its slots is as the command's operand says, kept, damaged or blank, a
slot it does not list damaged, and every other slot is as it was (R141, log entry 11). -/
abbrev ErasedAsLeft (sector : Nat) (left : List SlotLeft) (before after : Flash) : Prop :=
  ∀ k, flashRead after k =
    if k / 60 = sector then
      match left[k % 60]?.getD .damaged with
      | .kept => flashRead before k
      | .damaged => .damaged
      | .blank => .blank
    else flashRead before k

/-! ## The whole part -/

/-- The part with one port as given and everything else as it was. -/
def State.withPort (s : State) (i : Fin 4) (p : Port) : State :=
  { s with switches := { s.switches with ports := s.switches.ports.set i p } }

/-- Everything but the link is as it was, and so is the notice set. -/
abbrev OnlyLink (s t : State) : Prop := t = { s with link := t.link } ∧ t.link.notices = s.link.notices

/-- A reply made by a unit is queued, or waits among the completed ones. -/
abbrev Replied (r : Reply) (l : Link) : Prop := r ∈ l.replies ∨ r ∈ l.completed

/-- Requests that a unit held have been answered: each that no break has cancelled has its reply queued, or among the
completed ones. -/
abbrev HeldAnswered (held : List Request) (body : Request → List Byte) (l m : Link) : Prop :=
  ∀ r ∈ held, r.id ∉ l.cancelled → Replied ⟨r.id, r.tag, r.kind, body r, false⟩ m

/-- The METER reply as the counts are restored from an account: the marks as counts and as marks, and untallied energies,
residues, last currents, sense states and last voltage 0, with the account's time of last tally (R102, Table 12-13). -/
def restoredMeterBody (a : Account) (sampling : Bool) : List Byte :=
  0 :: (a.marks.bytes (natBytes 4) ++ a.marks.bytes (natBytes 4) ++ List.replicate 46 0 ++ [if sampling then 1 else 0]
    ++ natBytes 2 a.lastTally.day ++ natBytes 2 a.lastTally.minute)

/-- CLOCK_SOURCE has been raised where there is a core to take it: with the queueing of a NOTICE frame in STARTING and RUN,
into the set alone in HOLDOVER, and nowhere with the core off (R77, R78, R89, R171). -/
abbrev SourceRaised (s t : State) : Prop :=
  t.link.replies = s.link.replies
    ∧ (s.supply.power ≠ .off → t.link.notices = s.link.notices ||| 0x0020#16)
    ∧ (s.supply.power.awake = true → s.link.notices = 0 → s.link.receiving = true → t.link.onLine ≠ none)
    ∧ (s.supply.power = .holdover → t.link = { s.link with notices := t.link.notices })
    ∧ (s.supply.power = .off → t.link = s.link)

end Sys2Proof.Machine
end

