-- ==== Sys2Proof/Certificates/Slice0/Obligations.lean ====
section
/-! DEFINITION. The statements for the provers, from the numbered rules of the manual: the queue, the invariants, the formats, every command with its result and its frame, and the account's arithmetic. -/

open Sys2Proof Sys2Proof.Machine

/-! ## The queue and the end of an event -/

/-- A step takes the command at the front of the queue: it is exec of it on the state with the queue's rest. -/
def Obligations.StepTakesTheFront : Prop :=
  ∀ (c : Instr) (rest : List Instr) (s : State),
    step { s with pending := c :: rest } = exec c { s with pending := rest }

/-- A command changes nothing in the queue, and after it each unit has taken up what it could: no token waits on an
idle Token Unit in RUN, no request on a free store with the clock set, no entry on a journal that can write, no frame
on an idle line (R48, R154, R135, R169). That what is taken up is taken up at the end of the event that allows it is the
model's choice (log entry 14). -/
def Obligations.AfterEveryCommand : Prop :=
  ∀ (c : Instr) (s t : State), exec c s = .next t → t.pending = s.pending ∧ Settled t

/-! ## Invariants -/

/-- Every step keeps the account's rules: balance − debt = Ct − Ht + Ft − Vt, what each state permits of balance, debt
and grace budget, and their ranges, in the account and in every copy of it in the write queue, in flash and in replay
(R1, R2, R3, R5, R7, R10). -/
def Obligations.TheAccountKeepsItsRules : Prop :=
  ∀ s t : State, AccountsOk s → step s = .next t → AccountsOk t

/-- Every step keeps what the port states promise while the block is switching: the target is the least of demand
duty, account cap and shed cap, or 0 with demand OFF; BARRED has target and duty 0, RAMPING a duty below its target,
ON a duty equal to it, the others duty 0; the retry count is at most 3 (R104, R107 to R114, Tables 6-3 and 6-4). -/
def Obligations.ThePortsKeepTheirStates : Prop :=
  ∀ s t : State, PortsOk s → step s = .next t → PortsOk t

/-- Every step keeps each of these: the canonical form of the flash; the capacities of the intake queue (4), the
record list (48), the receipt list (32) and the transmit list (4 replies); the freshness of the frame numbers the
model gives (log entry 38); what goes with the power state; and the distinctness and the counts of the relay lists (R47,
R150, R151, R169, R118, R91, R165, R130). -/
def Obligations.SmallInvariantsAreKept : Prop :=
  ∀ s t : State, step s = .next t →
    (FlashWf s.flash → FlashWf t.flash) ∧ (Capacity s → Capacity t) ∧ (IdsOk s → IdsOk t) ∧ (PowerOk s → PowerOk t)
      ∧ (RelayOk s.relay → RelayOk t.relay)

/-- The reset state: the clock domain holds the values of a domain freshly powered, the core those of a core just
powered up, and every invariant holds (R72, R128, R119, R174, R164, R71). That reset is a part never provisioned, with
its flash blank, its domain powered, and an account and a journal not yet loaded at zero, is the model's choice (log
entries 1, 13); so are the backup reading of 0 before the first measurement, for which R72 and R122 give no value (log
entry 38), and the gap that says that no crystal edge has been seen (log entry 6). -/
def Obligations.ResetIsFreshlyPowered : Prop :=
  State.reset.domain = ⟨true, ⟨0, 0, 0, false, .rc, 0, .lost, 0, 0⟩, 4, ⟨5, 1, 60⟩, 0, .good⟩
    ∧ State.reset.supply = ⟨0, 0, .starting, 0, false, none, false, .notAsked⟩
    ∧ State.reset.link = ⟨true, [], 0, none, [], none, [], [], [], 0, 0, 0, 0⟩
    ∧ State.reset.relay = ⟨[], [], none, []⟩ ∧ State.reset.tokens.intake = [] ∧ State.reset.tokens.service = .idle
    ∧ (∀ i, State.reset.switches.ports.get i = ⟨.idle, false, 0, 0, 0, 0, 0, 0, 0, 0, 0, false⟩)
    ∧ State.reset.account.acct.state = .unprovisioned ∧ State.reset.pending = []
    ∧ AccountsOk State.reset ∧ PortsOk State.reset ∧ FlashWf State.reset.flash ∧ Capacity State.reset
    ∧ IdsOk State.reset ∧ PowerOk State.reset ∧ RelayOk State.reset.relay ∧ Settled State.reset

/-! ## Formats -/

/-- A CARRY body made of a count and the bytes of that many items reads as those items, with every field at every
value its range admits (R180, R155). -/
def Obligations.BundlesRoundTrip : Prop :=
  ∀ items : List RelayItem, items.length ≤ 8 →
    (∀ x ∈ items, match x with
      | .token dest _ issue expiry hop _ =>
        1 ≤ dest ∧ dest ≤ 4294967294 ∧ issue < 65536 ∧ expiry < 65536 ∧ hop ≤ 7
      | .receipt kit serial created _ =>
        1 ≤ kit ∧ kit ≤ 4294967294 ∧ 1 ≤ serial ∧ serial < 65536 ∧ created < 65536) →
      readBundle (BitVec.ofNat 8 items.length :: items.flatMap itemBytes) = some items
        ∧ (items.flatMap itemBytes).length = (items.map (fun x => match x with
            | .token _ _ _ _ _ _ => 23
            | .receipt _ _ _ _ => 13)).sum

/-- The 240 bytes of a record's fields read as the fields, with every field at every value its bytes admit (R183,
Tables 12-11 and 12-12). -/
def Obligations.SettingsRoundTrip : Prop :=
  ∀ f : Settings,
    f.kitNumber < 2 ^ 32 → f.district < 2 ^ 16 → f.initialIndex < 2 ^ 8 → f.initialCredit < 2 ^ 32 →
    f.initialTime.day < 2 ^ 16 → f.initialTime.minute < 2 ^ 16 →
    (∀ i, f.currentLimits.get i < 2 ^ 16 ∧ f.shedRanks.get i < 2 ^ 8) →
    f.f1 < 2 ^ 16 → f.f2 < 2 ^ 16 → f.f3 < 2 ^ 16 → f.hysteresis < 2 ^ 16 → f.cutoffIndex < 2 ^ 8 →
    f.restartMargin < 2 ^ 16 → f.acceptAge < 2 ^ 8 → -128 ≤ f.rcTrim → f.rcTrim ≤ 127 → f.tariffs.length = 8 →
    (∀ t ∈ f.tariffs, t.number < 2 ^ 8 ∧ t.standing < 2 ^ 24 ∧ (∀ i, t.prices.get i < 2 ^ 16) ∧ t.allowance < 2 ^ 24
      ∧ t.graceDays < 8 ∧ t.graceDuty < 2 ^ 16 ∧ t.debtLimit < 2 ^ 16 ∧ t.catchUpCap < 8) →
      (settingsBytes f).length = 240 ∧ readSettings (settingsBytes f) = f

/-- The STATUS body has 72 bytes, with every field at its offset in Table 12-7: result and account present, the account
group or zeros, the clock, the battery, the shed level and the power state, the port states, the journal state, the
counts held, the penalty wait, the last relay result or zeros, and the link's two counts (R181, R173, R40). -/
def Obligations.StatusLayout : Prop :=
  ∀ (s : State) (t : Tariff), t = tariffOf s.provisioning.settings s.account.acct.activeTariff →
    (statusBody s).length = 72
    ∧ fieldAt (statusBody s) 0 2 = s.account.loaded.toNat
    ∧ (s.account.loaded = true →
        fieldAt (statusBody s) 2 1 = s.account.acct.state.code.toNat
          ∧ fieldAt (statusBody s) 3 4 = s.account.acct.balance % 2 ^ 32
          ∧ fieldAt (statusBody s) 7 2 = s.account.acct.debt % 2 ^ 16
          ∧ fieldAt (statusBody s) 9 4 =
              (if t.standing = 0 ∨ s.account.acct.state = .paidOff ∨ s.account.acct.state = .unprovisioned then 4294967295
              else s.account.acct.balance / t.standing % 2 ^ 32)
          ∧ fieldAt (statusBody s) 13 2 = s.account.acct.graceBudget % 2 ^ 16
          ∧ fieldAt (statusBody s) 15 1 = s.account.acct.graceArmed.toNat
          ∧ fieldAt (statusBody s) 16 1 = s.account.acct.activeTariff % 2 ^ 8
          ∧ (s.account.acct.stagedTariff = none → fieldAt (statusBody s) 17 1 = 0)
          ∧ (∀ n, s.account.acct.stagedTariff = some n → fieldAt (statusBody s) 17 1 = n % 2 ^ 8)
          ∧ fieldAt (statusBody s) 18 6 = s.account.acct.ct % 2 ^ 48
          ∧ fieldAt (statusBody s) 24 6 = s.account.acct.ht % 2 ^ 48
          ∧ fieldAt (statusBody s) 30 6 = s.account.acct.ft % 2 ^ 48
          ∧ fieldAt (statusBody s) 36 6 = s.account.acct.vt % 2 ^ 48)
    ∧ (s.account.loaded = false → fieldAt (statusBody s) 2 40 = 0)
    ∧ fieldAt (statusBody s) 42 2 = s.domain.clock.day % 2 ^ 16
    ∧ fieldAt (statusBody s) 44 2 = s.domain.clock.minute % 2 ^ 16
    ∧ fieldAt (statusBody s) 46 1 = (if s.domain.clock.condition = .running then 0 else 1)
    ∧ fieldAt (statusBody s) 47 1 = (if s.domain.clock.source = .crystal then 0 else 1)
    ∧ fieldAt (statusBody s) 48 2 = s.domain.clock.hold % 2 ^ 16
    ∧ fieldAt (statusBody s) 50 2 = s.supply.battery % 2 ^ 16
    ∧ fieldAt (statusBody s) 52 1 = s.supply.shedLevel % 2 ^ 8
    ∧ (s.supply.power = .starting → fieldAt (statusBody s) 53 1 = 0)
    ∧ (s.supply.power = .run → fieldAt (statusBody s) 53 1 = 1)
    ∧ (∀ i : Fin 4, fieldAt (statusBody s) (54 + i.val) 1 = (s.switches.ports.get i).state.code.toNat)
    ∧ fieldAt (statusBody s) 58 1 = s.journal.state.code.toNat
    ∧ fieldAt (statusBody s) 59 1 = s.tokens.intake.length % 2 ^ 8
    ∧ fieldAt (statusBody s) 60 1 = s.relay.records.length % 2 ^ 8
    ∧ fieldAt (statusBody s) 61 1 = s.relay.receipts.length % 2 ^ 8
    ∧ fieldAt (statusBody s) 62 2 = s.domain.penalty.waitRemaining % 2 ^ 16
    ∧ (s.tokens.lastRelay = none → fieldAt (statusBody s) 64 4 = 0)
    ∧ (∀ o, s.tokens.lastRelay = some o →
        fieldAt (statusBody s) 64 1 = o.kind % 2 ^ 8 ∧ fieldAt (statusBody s) 65 2 = o.serial % 2 ^ 16
          ∧ fieldAt (statusBody s) 67 1 = o.result.code.toNat)
    ∧ fieldAt (statusBody s) 68 2 = s.link.overruns % 2 ^ 16
    ∧ fieldAt (statusBody s) 70 2 = s.link.errors % 2 ^ 16

/-! ## Requests turned away

A request's command is its whole frame arriving on the line (log entry 2), and it is served in the event that ends the
frame (log entry 3); both are the model's choices, and every statement about a request rests on them. -/

/-- On a line that is not read a request does nothing. BUSY while provisioning is in progress, and NOT_PROVISIONED
while the record is BLANK or DAMAGED, each for the requests Table 10-2 names, are answered by the link and the owner
is not reached. A request whose body must be empty and is not is answered BAD_REQUEST (R165, R174, R168, R173, R172,
R98, R178, R87, R131). That a RESTART with such a body is answered so outside RUN and while one is pending too, where
R131 also gives BUSY, is the model's choice (log entry 42), and so is it that a METER with such a body is answered at its
arrival before the counts are restored (log entry 45). -/
def Obligations.RequestsAreTurnedAway : Prop :=
  (∀ (k : RequestKind) (tag : Byte) (body : List Byte) (s : State),
    s.link.receiving = false → s.link.reception = none → Settled s → exec (requestOf k tag body) s = .next s)
  ∧ (∀ (k : RequestKind) (tag : Byte) (body : List Byte) (s : State), Ready body s →
    (s.provisioning.inProgress = true → k ≠ .status → k ≠ .identity →
        ∃ t, exec (requestOf k tag body) s = .next t ∧ Answered k tag body [4] false s.link t.link ∧ OnlyLink s t)
      ∧ (s.provisioning.inProgress = false →
          (s.provisioning.condition = .blank ∨ s.provisioning.condition = .damaged) →
          k ∉ [RequestKind.status, .provision, .identity, .restart] →
        ∃ t, exec (requestOf k tag body) s = .next t ∧ Answered k tag body [3] false s.link t.link ∧ OnlyLink s t))
  ∧ (∀ (k : RequestKind) (tag : Byte) (body : List Byte) (s : State),
    k ∈ [RequestKind.status, .notices, .meter, .identity, .clock, .restart] → body ≠ [] →
      Ready body s → Admitted k s →
        ∃ t, exec (requestOf k tag body) s = .next t ∧ Answered k tag body [1] false s.link t.link ∧ OnlyLink s t)

/-! ## Requests answered at their arrival -/

/-- Four requests that read the part, each served at its arrival. STATUS reports every block as it stands and changes none
(R173). NOTICES returns the notice set and clears it in one event (R172). IDENTITY reports the record's condition, its
numbers only while the record is VALID, and a part revision of 1 to 255; CLOCK reports the clock as it stands, the crystal
qualification only while the source is RC; neither changes anything (R178, R87). -/
def Obligations.ReportsAreMade : Prop :=
  (∀ (tag : Byte) (s : State), Ready [] s →
    ∃ t, exec (.status tag []) s = .next t
      ∧ Answered .status tag [] (statusBody s) false s.link t.link ∧ OnlyLink s t)
  ∧ (∀ (tag : Byte) (s : State), Ready [] s → Admitted .notices s →
    ∃ t, exec (.notices tag []) s = .next t
      ∧ Answered .notices tag [] (0 :: natBytes 2 s.link.notices.toNat) false s.link t.link
      ∧ t = { s with link := t.link } ∧ t.link.notices = 0)
  ∧ (∀ (tag : Byte) (s : State), Ready [] s →
    ∃ (t : State) (revision : Nat), exec (.identity tag []) s = .next t
      ∧ 1 ≤ revision ∧ revision ≤ 255
      ∧ Answered .identity tag []
          (0 :: s.provisioning.condition.code ::
            (natBytes 4 s.provisioning.settings.kitNumber ++ natBytes 2 s.provisioning.settings.district
              ++ natBytes 1 revision)) false s.link t.link
      ∧ (s.provisioning.condition ≠ .valid →
          s.provisioning.settings.kitNumber = 0 ∧ s.provisioning.settings.district = 0)
      ∧ OnlyLink s t)
  ∧ (∀ (tag : Byte) (s : State), Ready [] s → Admitted .clock s →
    ∃ t, exec (.clock tag []) s = .next t
      ∧ Answered .clock tag []
          (0 :: (natBytes 2 s.domain.clock.day ++ natBytes 2 s.domain.clock.minute ++ natBytes 1 s.domain.clock.second
            ++ [if s.domain.clock.timeSet then 1 else 0, if s.domain.clock.condition = .running then 0 else 1,
                if s.domain.clock.source = .crystal then 0 else 1]
            ++ natBytes 2 (if s.domain.clock.source = .rc then s.domain.clock.qualification else 0)
            ++ natBytes 2 s.domain.clock.hold ++ natBytes 2 s.domain.clock.anchorAge
            ++ [BitVec.ofInt 8 s.provisioning.settings.rcTrim])) false s.link t.link
      ∧ OnlyLink s t)

/-! ## Requests that change the part -/

/-- ENTER_TOKEN. A body that is not 20 ASCII digits of a number below 2^66 is answered BAD_FORMAT at its arrival and
leaves no trace; one that decodes is answered INTAKE_FULL when four entries are held (R44, R47). Otherwise it joins the
tail of the intake queue and waits there while another entry is in service or the part is not in RUN. With the unit IDLE
in RUN it is taken into service at once: with serial 0 it is answered BAD_FORMAT, with a penalty wait running PENALTY_WAIT
with the seconds left, and otherwise its check digest joins the digest list and the unit is in AWAIT_DIGEST (R47, R48,
R50). -/
def Obligations.EnterTokenIsTakenOrRefused : Prop :=
  (∀ (tag : Byte) (body : List Byte) (s : State), Ready body s → Admitted .enterToken s →
    ((body.length ≠ 20 ∨ (∃ b ∈ body, b.toNat < 48 ∨ 57 < b.toNat)
        ∨ 2 ^ 66 ≤ body.foldl (fun n b => n * 10 + (b.toNat - 48)) 0) →
      ∃ t, exec (.enterToken tag body) s = .next t
        ∧ Answered .enterToken tag body [18, 0, 0, 0] false s.link t.link ∧ OnlyLink s t)
    ∧ (∀ n : BitVec 66, body = asciiDigits 20 n.toNat → 4 ≤ s.tokens.intake.length →
      ∃ t, exec (.enterToken tag body) s = .next t
        ∧ Answered .enterToken tag body (17 :: (natBytes 1 (tokenKind n) ++ natBytes 2 (tokenSerial n))) false
            s.link t.link
        ∧ OnlyLink s t))
  ∧ (∀ (tag : Byte) (n : BitVec 66) (s : State),
    Ready (asciiDigits 20 n.toNat) s → Admitted .enterToken s → s.tokens.intake.length < 4 →
      (s.supply.power ≠ .run ∨ s.tokens.service ≠ .idle) →
      ∃ t, exec (.enterToken tag (asciiDigits 20 n.toNat)) s = .next t
        ∧ KeptByOwner .enterToken tag (asciiDigits 20 n.toNat) s.link t.link
        ∧ t.link.notices = s.link.notices
        ∧ t = { s with
            tokens := { s.tokens with
              intake := s.tokens.intake ++
                [⟨.keypad (arrivedRequest .enterToken tag (asciiDigits 20 n.toNat) s.link), n⟩] }
            link := t.link })
  ∧ (∀ (tag : Byte) (n : BitVec 66) (s : State),
    Ready (asciiDigits 20 n.toNat) s → Admitted .enterToken s →
      s.supply.power = .run → s.tokens.service = .idle →
      (tokenSerial n = 0 →
        ∃ t, exec (.enterToken tag (asciiDigits 20 n.toNat)) s = .next t
          ∧ Answered .enterToken tag (asciiDigits 20 n.toNat) (18 :: (natBytes 1 (tokenKind n) ++ [0, 0])) false
              s.link t.link
          ∧ OnlyLink s t)
      ∧ (tokenSerial n ≠ 0 → 0 < s.domain.penalty.waitRemaining →
        ∃ t, exec (.enterToken tag (asciiDigits 20 n.toNat)) s = .next t
          ∧ Answered .enterToken tag (asciiDigits 20 n.toNat)
              (19 :: (natBytes 1 (tokenKind n) ++ natBytes 2 (tokenSerial n)
                ++ natBytes 2 s.domain.penalty.waitRemaining)) false s.link t.link
          ∧ OnlyLink s t)
      ∧ (tokenSerial n ≠ 0 → s.domain.penalty.waitRemaining = 0 →
        ∃ t, exec (.enterToken tag (asciiDigits 20 n.toNat)) s = .next t
          ∧ KeptByOwner .enterToken tag (asciiDigits 20 n.toNat) s.link t.link
          ∧ t.link.notices = s.link.notices
          ∧ t = { s with
              tokens := { s.tokens with
                intake := [⟨.keypad (arrivedRequest .enterToken tag (asciiDigits 20 n.toNat) s.link), n⟩]
                service := .awaitDigest }
              digests := s.digests ++ [⟨.tokenCheck, s.provisioning.settings.kitKey,
                [s.provisioning.settings.kitNumber, tokenKind n, tokenSerial n, tokenDayField n, tokenValue n]⟩]
              link := t.link }))

/-- PORT sets one port's demand and demand duty, taken as at most 1000, and the port acts on its target; the reply
reports the port after it, and the other ports are as they were. A body of another length, a port above 3 or a demand
above 1 is answered BAD_REQUEST and changes nothing (R115). A demand that reaches a port: demand OFF takes any port but
a latched one to IDLE with duty 0, retry count 0 and its timers clear; demand ON takes an IDLE port to BARRED at target
0 and otherwise to RAMPING from duty 0 with the step timer at 100 ms; a latched port only records it, and a port in
TRIP_WAIT records it with its wait running on (R107, R113). Demand ON that reaches a port in BARRED, RAMPING or ON, for
ports that keep what their states promise: a target of 0 bars the port at duty 0 with its timers clear; a BARRED port
otherwise ramps from 0, a RAMPING one is ON at a target at or below its duty and ramps on, its step timer running, at a
higher one, and one that is ON keeps its on run at a target at or below its duty and ramps from that duty at a higher one;
the retry count stands in each (R108, Table 6-4). -/
def Obligations.PortSetsOneDemand : Prop :=
  (∀ (tag : Byte) (i : Fin 4) (on : Bool) (high low : Byte) (s : State),
    Ready [BitVec.ofNat 8 i.val, if on then 1 else 0, high, low] s → Admitted .port s →
      s.switches.switching = true →
      ∃ (t : State) (q : Port), exec (.port tag [BitVec.ofNat 8 i.val, if on then 1 else 0, high, low]) s = .next t
        ∧ q = (s.switches.ports.get i).setDemand on (min (high.toNat * 256 + low.toNat) 1000)
        ∧ Answered .port tag [BitVec.ofNat 8 i.val, if on then 1 else 0, high, low]
            (0 :: (natBytes 1 i.val ++ [q.state.code, if on then 1 else 0]
              ++ natBytes 2 (min (high.toNat * 256 + low.toNat) 1000)
              ++ natBytes 2 q.accountCap ++ natBytes 2 q.shedCap ++ natBytes 2 q.target ++ natBytes 2 q.duty
              ++ natBytes 1 q.retry)) false s.link t.link
        ∧ t.link.notices = s.link.notices
        ∧ t = { s with
            switches := { s.switches with ports := s.switches.ports.set i q }
            link := t.link })
  ∧ (∀ (tag : Byte) (body : List Byte) (s : State), Ready body s → Admitted .port s →
      (body.length ≠ 4 ∨ 4 ≤ fieldAt body 0 1 ∨ 2 ≤ fieldAt body 1 1) →
      ∃ t, exec (.port tag body) s = .next t ∧ Answered .port tag body [1] false s.link t.link ∧ OnlyLink s t)
  ∧ (∀ (p : Port) (duty : Nat),
    ((p.state ≠ .latched →
        (p.setDemand false duty).state = .idle ∧ (p.state ≠ .idle →
          (p.setDemand false duty).duty = 0 ∧ (p.setDemand false duty).retry = 0
          ∧ (p.setDemand false duty).stepTimer = 0 ∧ (p.setDemand false duty).tripWait = 0
          ∧ (p.setDemand false duty).onRun = 0)))
    ∧ (p.state = .idle →
        (min duty (min p.accountCap p.shedCap) = 0 →
          (p.setDemand true duty).state = .barred ∧ (p.setDemand true duty).duty = 0)
        ∧ (min duty (min p.accountCap p.shedCap) ≠ 0 →
          (p.setDemand true duty).state = .ramping ∧ (p.setDemand true duty).duty = 0
          ∧ (p.setDemand true duty).stepTimer = 100))
    ∧ (∀ on, p.state = .latched →
        (p.setDemand on duty).state = .latched ∧ (p.setDemand on duty).duty = p.duty
        ∧ (p.setDemand on duty).retry = p.retry)
    ∧ (p.state = .tripWait →
        (p.setDemand true duty).state = .tripWait ∧ (p.setDemand true duty).duty = p.duty
        ∧ (p.setDemand true duty).tripWait = p.tripWait ∧ (p.setDemand true duty).retry = p.retry)
    ∧ (∀ on, (p.setDemand on duty).demand = on ∧ (p.setDemand on duty).demandDuty = duty
        ∧ (p.setDemand on duty).accountCap = p.accountCap ∧ (p.setDemand on duty).shedCap = p.shedCap
        ∧ (p.setDemand on duty).target = if on then min duty (min p.accountCap p.shedCap) else 0))
  ∧ (∀ (p q : Port) (duty target : Nat), PortOk p → q = p.setDemand true duty →
    target = min duty (min p.accountCap p.shedCap) →
    (p.state = .barred ∨ p.state = .ramping ∨ p.state = .on →
      q.retry = p.retry ∧ q.driven = p.driven
        ∧ (target = 0 → q.state = .barred ∧ q.duty = 0 ∧ (p.state ≠ .barred → q.stepTimer = 0 ∧ q.onRun = 0)))
    ∧ (p.state = .barred → 0 < target → q.state = .ramping ∧ q.duty = 0 ∧ q.stepTimer = 100)
    ∧ (p.state = .ramping → 0 < target →
        (target ≤ p.duty → q.state = .on ∧ q.duty = target ∧ q.stepTimer = 0 ∧ q.onRun = 0)
        ∧ (p.duty < target → q.state = .ramping ∧ q.duty = p.duty ∧ q.stepTimer = p.stepTimer))
    ∧ (p.state = .on → 0 < target →
        (target ≤ p.duty → q.state = .on ∧ q.duty = target ∧ q.onRun = p.onRun)
        ∧ (p.duty < target → q.state = .ramping ∧ q.duty = p.duty ∧ q.stepTimer = 100 ∧ q.onRun = 0)))

/-- UNLATCH releases a latched port, its retry count 0: to IDLE with demand OFF, to BARRED with demand ON, and on to
RAMPING from duty 0 where its target is above 0. A port in any other state is left as it was. Both are answered OK; a
body of another length or a port above 3 is answered BAD_REQUEST (R116). -/
def Obligations.UnlatchReleases : Prop :=
  (∀ (tag : Byte) (i : Fin 4) (s : State),
    Ready [BitVec.ofNat 8 i.val] s → Admitted .unlatch s → s.switches.switching = true →
      ∃ (t : State) (q : Port), exec (.unlatch tag [BitVec.ofNat 8 i.val]) s = .next t
        ∧ Answered .unlatch tag [BitVec.ofNat 8 i.val]
            (0 :: (natBytes 1 i.val ++ [if (s.switches.ports.get i).state = .latched then 1 else 0, q.state.code]
              ++ natBytes 1 q.retry)) false s.link t.link
        ∧ t.link.notices = s.link.notices
        ∧ t = { s with
            switches := { s.switches with ports := s.switches.ports.set i q }
            link := t.link }
        ∧ ((s.switches.ports.get i).state ≠ .latched → q = s.switches.ports.get i)
        ∧ ((s.switches.ports.get i).state = .latched →
            q.retry = 0 ∧ q.duty = 0 ∧ q.demand = (s.switches.ports.get i).demand
            ∧ q.target = (s.switches.ports.get i).target
            ∧ q.state = (if (s.switches.ports.get i).demand = false then .idle
                else if (s.switches.ports.get i).target = 0 then .barred else .ramping)))
  ∧ (∀ (tag : Byte) (body : List Byte) (s : State), Ready body s → Admitted .unlatch s →
      (body.length ≠ 1 ∨ 4 ≤ fieldAt body 0 1) →
      ∃ t, exec (.unlatch tag body) s = .next t ∧ Answered .unlatch tag body [1] false s.link t.link ∧ OnlyLink s t)

/-- METER is answered from the meter and the marks as they stand once the account is loaded, and held until then; the
untallied energy is the count less the mark (R98, R97, Table 12-13). -/
def Obligations.MeterReports : Prop :=
  ∀ (tag : Byte) (s : State), Ready [] s → Admitted .meter s →
    (s.account.loaded = true →
      ∃ t, exec (.meter tag []) s = .next t
        ∧ Answered .meter tag []
            (0 :: (s.meter.ports.bytes (fun m => natBytes 4 m.count)
              ++ s.account.acct.marks.bytes (natBytes 4)
              ++ (s.meter.ports.zip (fun m mark => m.count - mark) s.account.acct.marks).bytes (natBytes 4)
              ++ s.meter.ports.bytes (fun m => natBytes 4 m.residue)
              ++ s.meter.ports.bytes (fun m => natBytes 2 m.lastCurrent)
              ++ s.meter.ports.bytes (fun m => [if m.sense = .fault then 1 else 0])
              ++ natBytes 2 s.meter.lastVoltage ++ [if s.meter.sampling then 1 else 0]
              ++ natBytes 2 s.account.acct.lastTally.day ++ natBytes 2 s.account.acct.lastTally.minute)) false
            s.link t.link
        ∧ OnlyLink s t)
    ∧ (s.account.loaded = false →
      ∃ t, exec (.meter tag []) s = .next t ∧ KeptByOwner .meter tag [] s.link t.link
        ∧ t.link.notices = s.link.notices
        ∧ t = { s with
            meter := { s.meter with held := s.meter.held ++ [arrivedRequest .meter tag [] s.link] }
            link := t.link })

/-- HISTORY is answered from the flash in RUN with no flash operation in progress, and held otherwise; a body of
another length than 4 is answered BAD_REQUEST (R148). A page of history has at most six entries, each a valid TOKEN
entry of a slot with its sequence below the bound (or any, with bound 0), in descending order of sequence, and no such
entry left out has a higher sequence than one returned (R148). A slot holds a valid entry exactly when its first 93 bytes
are programmed and the last 4 of them are the CRC-32 of the 89 before (R132, R182). The reply's body is the result, the
number of entries, and for each its 22 bytes as Table 12-8 lays them out. That a body of another length is answered at its
arrival where a good one would be held is the model's choice (log entry 45). -/
def Obligations.HistoryIsServedOrHeld : Prop :=
  (∀ (tag : Byte) (body : List Byte) (s : State), Ready body s → Admitted .history s →
    (body.length ≠ 4 →
      ∃ t, exec (.history tag body) s = .next t ∧ Answered .history tag body [1] false s.link t.link ∧ OnlyLink s t)
    ∧ (body.length = 4 → s.supply.power = .run → s.journal.op = .none →
      ∃ t, exec (.history tag body) s = .next t
        ∧ Answered .history tag body (historyBody s.flash (bytesNat body)) false s.link t.link ∧ OnlyLink s t)
    ∧ (body.length = 4 → ¬(s.supply.power = .run ∧ s.journal.op = .none) →
      ∃ t, exec (.history tag body) s = .next t ∧ KeptByOwner .history tag body s.link t.link
        ∧ t.link.notices = s.link.notices
        ∧ t = { s with
            journal := { s.journal with held := s.journal.held ++ [arrivedRequest .history tag body s.link] }
            link := t.link }))
  ∧ (∀ (f : Flash) (bound : Nat),
    (historyEntries f bound).length ≤ 6
      ∧ (historyEntries f bound).Pairwise (fun a b => b.sequence ≤ a.sequence)
      ∧ (∀ e ∈ historyEntries f bound, ∃ x ∈ f, x.2.valid = some e
          ∧ (∃ b, e.kind = .token b) ∧ (bound = 0 ∨ e.sequence < bound))
      ∧ (∀ x ∈ f, ∀ e b, x.2.valid = some e → e.kind = .token b →
          (bound = 0 ∨ e.sequence < bound) → e ∉ historyEntries f bound →
          (historyEntries f bound).length = 6 ∧ ∀ h ∈ historyEntries f bound, e.sequence ≤ h.sequence))
  ∧ (∀ (c : Slot) (e : Entry), c.valid = some e ↔
    ∃ (bytes : List Byte) (rest : List (Option Byte)),
      c = .entry e (bytes.map some ++ rest) ∧ bytes.length = 93
        ∧ bytesNat (bytes.drop 89) = (crc32 (bytes.take 89)).toNat)
  ∧ (∀ (f : Flash) (bound : Nat),
    historyBody f bound = 0 :: (natBytes 1 (historyEntries f bound).length
      ++ (historyEntries f bound).flatMap (fun e => match e.kind with
        | .token b => natBytes 4 e.sequence ++ natBytes 2 e.time.day ++ natBytes 2 e.time.minute ++ natBytes 1 b.kind
            ++ natBytes 2 b.serial ++ natBytes 2 b.value ++ natBytes 2 b.issueDay ++ [e.snapshot.state.code]
            ++ natBytes 4 e.snapshot.balance ++ natBytes 2 e.snapshot.debt
        | .tally => []
        | .suspend => []
        | .checkpoint _ _ => [])))

/-- CARRY: a body that is no bundle is answered BAD_REQUEST; an empty bundle is answered OK with the two counts; a
bundle with items is taken into service and its first item's envelope check requested; with another request in service
or the clock not set the request waits (R154, R155). A body is a bundle exactly when it is a count of at most 8 and that
many items back to back and nothing more, each of a defined type and its whole length, with a destination or kit number of
1 to 4,294,967,294, a hop count of at most 7 and a receipt serial above 0; its items are those the bytes spell as Table
12-6 lays them out, the token number being the low 66 bits of its 9 bytes (R155, R180). That a body is judged when the
request is taken is the model's choice (log entry 16). -/
def Obligations.CarryIsTaken : Prop :=
  (∀ (tag : Byte) (body : List Byte) (s : State), Ready body s → Admitted .carry s →
    (s.relay.service = none → s.domain.clock.timeSet = true →
      (readBundle body = none →
        ∃ t, exec (.carry tag body) s = .next t ∧ Answered .carry tag body [1] false s.link t.link ∧ OnlyLink s t)
      ∧ (body = [0] →
        ∃ t, exec (.carry tag body) s = .next t
          ∧ Answered .carry tag body
              (0 :: (natBytes 1 s.relay.records.length ++ natBytes 1 s.relay.receipts.length)) false s.link t.link
          ∧ OnlyLink s t)
      ∧ (∀ item items, readBundle body = some (item :: items) →
        ∃ t, exec (.carry tag body) s = .next t ∧ KeptByOwner .carry tag body s.link t.link
          ∧ t.link.notices = s.link.notices
          ∧ t = { s with
              relay := { s.relay with
                service := some ⟨arrivedRequest .carry tag body s.link, item :: items, [], none⟩ }
              digests := s.digests ++ [⟨.itemCheck, s.provisioning.settings.districtKey, item.envelopeFields⟩]
              link := t.link }))
    ∧ (s.relay.service ≠ none ∨ s.domain.clock.timeSet = false →
      ∃ t, exec (.carry tag body) s = .next t ∧ KeptByOwner .carry tag body s.link t.link
        ∧ t.link.notices = s.link.notices
        ∧ t = { s with
            relay := { s.relay with waiting := s.relay.waiting ++ [arrivedRequest .carry tag body s.link] }
            link := t.link }))
  ∧ (∀ body : List Byte,
    (readBundle body = none ↔ ¬∃ chunks : List (List Byte), chunks.length ≤ 8
        ∧ body = BitVec.ofNat 8 chunks.length :: chunks.flatten ∧ ∀ b ∈ chunks, ItemInRange b)
    ∧ (∀ chunks : List (List Byte), chunks.length ≤ 8 → body = BitVec.ofNat 8 chunks.length :: chunks.flatten →
        (∀ b ∈ chunks, ItemInRange b) → readBundle body = some (chunks.map spelledItem)))

/-- HANDOFF: the records for the named neighbour first, in arrival order, and then the others in ascending order of
offer count, in arrival order among equals, at most the count and at most eight, go out as copies with the hop count
raised; the offer counts rise and a sixth offer removes the record. A body of another length or a neighbour out of range
is answered BAD_REQUEST; with another request in service or the clock not set the request waits (R154, R159). That any
body, a bad one too, waits, and is judged when the request is taken, is the model's choice (log entry 16). -/
def Obligations.HandoffHandsOut : Prop :=
  (∀ (tag : Byte) (body : List Byte) (s : State), Ready body s → Admitted .handoff s →
    (s.relay.service = none → s.domain.clock.timeSet = true →
      (∀ (k : Nat) (neighbour : Option Nat),
        ((body.length = 1 ∧ neighbour = none ∧ k = min (fieldAt body 0 1) 8)
          ∨ (body.length = 5 ∧ neighbour = some (fieldAt body 0 4) ∧ 1 ≤ fieldAt body 0 4
              ∧ fieldAt body 0 4 ≤ 4294967294 ∧ k = min (fieldAt body 4 1) 8)) →
        ∃ (t : State) (out : List RelayRecord), exec (.handoff tag body) s = .next t
          ∧ out = handoffList neighbour k s.relay.records
          ∧ Answered .handoff tag body
              (0 :: (natBytes 1 out.length
                ++ out.flatMap (fun r => itemBytes
                    (.token r.destination r.token r.issueDay r.expiryDay (r.hop + 1) r.envelope))
                ++ natBytes 1 t.relay.records.length)) false s.link t.link
          ∧ t.link.notices = s.link.notices
          ∧ t = { s with relay := { s.relay with records := t.relay.records }, link := t.link }
          ∧ t.relay.records = s.relay.records.filterMap (fun r =>
              if out.any (fun x => x.destination = r.destination ∧ tokenSerial x.token = tokenSerial r.token) then
                if r.offers + 1 < 6 then some { r with offers := r.offers + 1 } else none
              else some r))
      ∧ ((body.length ≠ 1 ∧ body.length ≠ 5)
          ∨ (body.length = 5 ∧ (fieldAt body 0 4 = 0 ∨ 4294967294 < fieldAt body 0 4)) →
        ∃ t, exec (.handoff tag body) s = .next t ∧ Answered .handoff tag body [1] false s.link t.link
          ∧ OnlyLink s t))
    ∧ (s.relay.service ≠ none ∨ s.domain.clock.timeSet = false →
      ∃ t, exec (.handoff tag body) s = .next t ∧ KeptByOwner .handoff tag body s.link t.link
        ∧ t.link.notices = s.link.notices
        ∧ t = { s with
            relay := { s.relay with waiting := s.relay.waiting ++ [arrivedRequest .handoff tag body s.link] }
            link := t.link }))
  ∧ (∀ (neighbour : Option Nat) (k n : Nat) (list : List RelayRecord),
    (handoffList neighbour k list).length = min k list.length
      ∧ (handoffList none k list).Pairwise (fun a b => a.offers ≤ b.offers)
      ∧ (∀ o, (handoffList none list.length list).filter (fun r => r.offers = o)
          = list.filter (fun r => r.offers = o))
      ∧ handoffList none k list = (handoffList none list.length list).take k
      ∧ handoffList (some n) k list = (list.filter (fun r => r.destination = n)
          ++ handoffList none list.length (list.filter (fun r => r.destination ≠ n))).take k)

/-- RECEIPTS: the first receipts of the list, at most the count and at most eight, go out; their hand counts rise and
a third hand removes the receipt. A body of another length is answered BAD_REQUEST; with another request in service or
the clock not set the request waits (R154, R160). That any body, a bad one too, waits, and is judged when the request is
taken, is the model's choice (log entry 16). -/
def Obligations.ReceiptsHandsOut : Prop :=
  ∀ (tag : Byte) (body : List Byte) (s : State), Ready body s → Admitted .receipts s →
    (s.relay.service = none → s.domain.clock.timeSet = true →
      (∀ count : Byte, body = [count] →
        ∃ (t : State) (out rest : List Receipt), exec (.receipts tag body) s = .next t
          ∧ s.relay.receipts = out ++ rest ∧ out.length = min (min count.toNat 8) s.relay.receipts.length
          ∧ Answered .receipts tag body
              (0 :: (natBytes 1 out.length
                ++ out.flatMap (fun r => itemBytes (.receipt r.kit r.serial r.created r.envelope))
                ++ natBytes 1 t.relay.receipts.length)) false s.link t.link
          ∧ t.link.notices = s.link.notices
          ∧ t = { s with relay := { s.relay with receipts := t.relay.receipts }, link := t.link }
          ∧ t.relay.receipts = (out.map (fun r => { r with hands := r.hands + 1 })).filter (fun r => r.hands < 3)
              ++ rest)
      ∧ (body.length ≠ 1 →
        ∃ t, exec (.receipts tag body) s = .next t ∧ Answered .receipts tag body [1] false s.link t.link
          ∧ OnlyLink s t))
    ∧ (s.relay.service ≠ none ∨ s.domain.clock.timeSet = false →
      ∃ t, exec (.receipts tag body) s = .next t ∧ KeptByOwner .receipts tag body s.link t.link
        ∧ t.link.notices = s.link.notices
        ∧ t = { s with
            relay := { s.relay with waiting := s.relay.waiting ++ [arrivedRequest .receipts tag body s.link] }
            link := t.link })

/-- PROVISION on a BLANK record in RUN with 240 bytes in range, thresholds in order and tariff numbers distinct: the
record is PROGRAMMING with the fields of the body, and the request is not yet answered. Each refusal, in the order of
its test: ALREADY_PROVISIONED, RECORD_DAMAGED, BUSY outside RUN, BAD_REQUEST for another length, OUT_OF_RANGE with the
offset of the first field out of range, THRESHOLD_ORDER, TARIFF_NUMBERS (R176). The ranges are those of Tables 11-1 and
2-1, the order of the thresholds F1 > F2 > F3 > cutoff + H, and no two of the eight tariff numbers may be equal. Which
offset stands for a field that shares its bytes is the model's choice (log entry 21). -/
def Obligations.ProvisionIsJudged : Prop :=
  (∀ (tag : Byte) (body : List Byte) (s : State), Ready body s → Admitted .provision s →
    (∀ reply,
      ((s.provisioning.condition = .valid ∧ reply = [6])
        ∨ (s.provisioning.condition = .damaged ∧ reply = [7, 1])
        ∨ (s.provisioning.condition = .blank ∧ s.supply.power ≠ .run ∧ reply = [4])
        ∨ (s.provisioning.condition = .blank ∧ s.supply.power = .run ∧ body.length ≠ 240 ∧ reply = [1])
        ∨ (s.provisioning.condition = .blank ∧ s.supply.power = .run ∧ body.length = 240
            ∧ ∃ o, firstOutOfRange body = some o ∧ reply = [7, 2, BitVec.ofNat 8 o])
        ∨ (s.provisioning.condition = .blank ∧ s.supply.power = .run ∧ body.length = 240
            ∧ firstOutOfRange body = none ∧ thresholdsOrdered (readSettings body) = false ∧ reply = [7, 3])
        ∨ (s.provisioning.condition = .blank ∧ s.supply.power = .run ∧ body.length = 240
            ∧ firstOutOfRange body = none ∧ thresholdsOrdered (readSettings body) = true
            ∧ tariffNumbersDistinct (readSettings body) = false ∧ reply = [7, 4])) →
      ∃ t, exec (.provision tag body) s = .next t ∧ Answered .provision tag body reply false s.link t.link
        ∧ OnlyLink s t)
    ∧ (s.provisioning.condition = .blank → s.supply.power = .run → body.length = 240 → firstOutOfRange body = none →
        thresholdsOrdered (readSettings body) = true → tariffNumbersDistinct (readSettings body) = true →
      ∃ t, exec (.provision tag body) s = .next t ∧ KeptByOwner .provision tag body s.link t.link
        ∧ t.link.notices = s.link.notices
        ∧ t = { s with
            provisioning := ⟨s.provisioning.otp, .programming, .programming (readSettings body),
              some (arrivedRequest .provision tag body s.link)⟩
            link := t.link }))
  ∧ (∀ body : List Byte,
    (∀ o, firstOutOfRange body = some o ↔ FieldOutOfRange body o ∧ ∀ o' < o, ¬FieldOutOfRange body o')
      ∧ (firstOutOfRange body = none ↔ ∀ o, ¬FieldOutOfRange body o))
  ∧ (∀ f : Settings,
    (thresholdsOrdered f = true ↔ f.f2 < f.f1 ∧ f.f3 < f.f2 ∧ 10200 + 200 * f.cutoffIndex + f.hysteresis < f.f3)
      ∧ (tariffNumbersDistinct f = true ↔ f.tariffs.Pairwise (fun a b => a.number ≠ b.number)))

/-- RESTART with an empty body: BUSY outside RUN or while one is pending; on a provisioned part NOT_DURABLE with a
FAILED journal, and otherwise a TALLY that carries the restart is submitted and the request waits for it; on an
UNPROVISIONED part the reply OK, after which the core restarts, is queued at once (R131, R136). A TALLY waiting in the
queue takes the restart in the new one's place (R137); that it is the last such TALLY, where two wait, is the model's
choice (log entry 30). The oldest entry is no such TALLY while it is being written. -/
def Obligations.RestartIsTaken : Prop :=
  ∀ (tag : Byte) (s : State), Ready [] s → Admitted .restart s →
    (s.supply.power ≠ .run ∨ s.supply.restartPending = true →
      ∃ t, exec (.restart tag []) s = .next t ∧ Answered .restart tag [] [4] false s.link t.link ∧ OnlyLink s t)
    ∧ (s.supply.power = .run → s.supply.restartPending = false → s.provisioning.provisioned = true →
      (s.journal.failed = true →
        ∃ t, exec (.restart tag []) s = .next t ∧ Answered .restart tag [] [5] false s.link t.link ∧ OnlyLink s t)
      ∧ (∀ begun waiting joined : List Queued, s.journal.failed = false → s.journal.queue = begun ++ waiting →
          ((begun = [] ∧ ((∀ e, s.journal.op ≠ .write e) ∨ waiting = [])
              ∧ (s.journal.op ≠ .none ∨ s.journal.flushWait = true))
            ∨ (begun.length = 1 ∧ ∃ e, s.journal.op = .write e)) →
          (((∀ r, Queued.tally r ∉ waiting) ∧ joined = waiting ++ [.tally true])
            ∨ (∃ before r after, waiting = before ++ .tally r :: after ∧ (∀ r, Queued.tally r ∉ after)
                ∧ joined = before ++ .tally true :: after)) →
        ∃ t, exec (.restart tag []) s = .next t ∧ KeptByOwner .restart tag [] s.link t.link
          ∧ t.link.notices = s.link.notices
          ∧ t = { s with
              supply := { s.supply with
                restartPending := true, restartRequest := some (arrivedRequest .restart tag [] s.link) }
              journal := { s.journal with queue := begun ++ joined }
              link := t.link })
      ∧ (s.journal.failed = false → s.journal.op = .none → s.journal.flushWait = false →
        ∃ t, exec (.restart tag []) s = .next t ∧ KeptByOwner .restart tag [] s.link t.link
          ∧ t.link.notices = s.link.notices
          ∧ t = { s with
              supply := { s.supply with
                restartPending := true, restartRequest := some (arrivedRequest .restart tag [] s.link) }
              journal := { s.journal with
                queue := [.tally true]
                op := if 60 ≤ s.journal.nextSlot then .erase (nextGood s.journal.bad s.journal.sector)
                  else .write (sealEntry s.journal.nextSequence .tally s.domain.clock.time s.account.acct) }
              link := t.link }))
    ∧ (s.supply.power = .run → s.supply.restartPending = false → s.provisioning.provisioned = false →
      ∃ t, exec (.restart tag []) s = .next t ∧ Answered .restart tag [] [0] true s.link t.link
        ∧ t.link.notices = s.link.notices
        ∧ t = { s with
            supply := { s.supply with
              restartPending := true, restartRequest := some (arrivedRequest .restart tag [] s.link) }
            link := t.link })

/-! ## The line -/

/-- A character on a line that is read: it begins a frame or joins the one in reception while the free run has room
and fewer than 261 have come, marking the frame damaged when its stop bit is not found; with the free run empty the
frame is overrun, at its first character too, its bytes released and the write position back at its first; the 261st
makes it oversized and releases its bytes; after either it is only counted. On a line that is not read nothing happens
(R165, R166, R167). That a 261st character meeting an empty free run is an overrun, and that an oversized frame does not
take the write position back, are the model's choices (log entry 17). -/
def Obligations.CharactersAreStored : Prop :=
  ∀ (char : Byte) (stopBit : Bool) (s : State), Settled s →
    (s.link.receiving = false → exec (.characterReceived char stopBit) s = .next s)
    ∧ (s.link.receiving = true → s.link.reception = none →
        (s.link.freeRun ≠ 0 →
          exec (.characterReceived char stopBit) s = .next { s with link := { s.link with
            reception := some ⟨s.link.writePos, 1, [char], if stopBit then .good else .damaged⟩
            writePos := (s.link.writePos + 1) % 512 } })
        ∧ (s.link.freeRun = 0 →
          exec (.characterReceived char stopBit) s = .next { s with link := { s.link with
            reception := some ⟨s.link.writePos, 1, [], .overrun⟩ } }))
    ∧ (∀ r : Reception, s.link.receiving = true → s.link.reception = some r →
        ((r.condition = .good ∨ r.condition = .damaged) → s.link.freeRun ≠ 0 → r.count < 260 →
          exec (.characterReceived char stopBit) s = .next { s with link := { s.link with
            reception := some ⟨r.start, r.count + 1, r.bytes ++ [char], if stopBit then r.condition else .damaged⟩
            writePos := (s.link.writePos + 1) % 512 } })
        ∧ ((r.condition = .good ∨ r.condition = .damaged) → s.link.freeRun = 0 →
          exec (.characterReceived char stopBit) s = .next { s with link := { s.link with
            reception := some ⟨r.start, r.count + 1, [], .overrun⟩
            writePos := r.start } })
        ∧ ((r.condition = .good ∨ r.condition = .damaged) → s.link.freeRun ≠ 0 → 260 ≤ r.count →
          exec (.characterReceived char stopBit) s = .next { s with link := { s.link with
            reception := some ⟨r.start, r.count + 1, [], .oversized⟩ } })
        ∧ ((r.condition = .overrun ∨ r.condition = .oversized) →
          exec (.characterReceived char stopBit) s = .next { s with link := { s.link with
            reception := some ⟨r.start, r.count + 1, r.bytes, r.condition⟩ } }))

/-- A frame that ends is judged. An overrun one raises the overrun count and LINK_OVERRUN; an oversized, damaged or
malformed one raises the error count; neither gets a reply, and both counts are held at 65,535. A valid one is a
request: of an unknown kind, the NOTICE frame's among them, it is answered UNKNOWN_REQUEST, which waits among the completed
replies when four are listed, and of one of the fourteen kinds it does what its request command does (R166 to R169). A frame
is well formed exactly when its bytes are a tag, a kind, a body length L, L bytes and the CRC-16 of all of these; with
another count of bytes or another check it is malformed (R167, R179). That the command changes nothing without a frame in
reception (log entry 4), and that the write position stays where it stands after an oversized, damaged or malformed frame
(log entry 17), are the model's choices. -/
def Obligations.FramesAreJudged : Prop :=
  (∀ s : State, Settled s → s.supply.power.awake = true →
    (s.link.reception = none → exec .frameEnd s = .next s)
    ∧ (∀ r : Reception, s.link.reception = some r →
        (r.condition = .overrun →
          ∃ t, exec .frameEnd s = .next t
            ∧ t = { s with link := t.link } ∧ t.link.reception = none
            ∧ t.link.overruns = min (s.link.overruns + 1) 65535 ∧ t.link.errors = s.link.errors
            ∧ t.link.notices = s.link.notices ||| 0x0800#16
            ∧ t.link.replies = s.link.replies ∧ t.link.held = s.link.held ∧ t.link.completed = s.link.completed)
        ∧ (r.condition = .oversized ∨ r.condition = .damaged ∨ parseFrame r.bytes = none → r.condition ≠ .overrun →
          exec .frameEnd s = .next { s with link := { s.link with
            reception := none, errors := min (s.link.errors + 1) 65535 } })))
  ∧ (∀ (tag kind : Byte) (body : List Byte) (s : State),
    Ready body s →
      (requestKindOf kind = none →
        ∃ t, exec .frameEnd { s with link := { s.link with
            reception := some ⟨s.link.writePos, body.length + 5, frameBytes tag kind body, .good⟩
            writePos := (s.link.writePos + body.length + 5) % 512 } } = .next t
          ∧ t = { s with link := t.link } ∧ t.link.reception = none
          ∧ t.link.notices = s.link.notices
          ∧ (s.link.replyCount < 4 →
              t.link.replies = s.link.replies ++ [⟨s.link.nextId, tag, kind, [2], false⟩]
              ∧ t.link.completed = s.link.completed ∧ t.link.held = s.link.held)
          ∧ (4 ≤ s.link.replyCount →
              t.link.replies = s.link.replies
              ∧ t.link.completed = s.link.completed ++ [⟨s.link.nextId, tag, kind, [2], false⟩]
              ∧ t.link.held = s.link.held ++ [⟨s.link.nextId, s.link.writePos, frameBytes tag kind body⟩]))
      ∧ (∀ k : RequestKind, kind = k.code →
          exec .frameEnd { s with link := { s.link with
            reception := some ⟨s.link.writePos, body.length + 5, frameBytes tag kind body, .good⟩
            writePos := (s.link.writePos + body.length + 5) % 512 } } = exec (requestOf k tag body) s))
  ∧ (∀ (bytes body : List Byte) (tag kind : Byte),
    parseFrame bytes = some (tag, kind, body) ↔ body.length ≤ 255 ∧ bytes = frameBytes tag kind body)
  ∧ (∀ (bytes : List Byte) (tag kind length : Byte) (rest : List Byte), bytes = tag :: kind :: length :: rest →
    (rest.length ≠ length.toNat + 2 → parseFrame bytes = none)
      ∧ (rest.length = length.toNat + 2 →
          fieldAt bytes (length.toNat + 3) 2 ≠ (crc16 (bytes.take (length.toNat + 3))).toNat → parseFrame bytes = none)
      ∧ (rest.length = length.toNat + 2 →
          fieldAt bytes (length.toNat + 3) 2 = (crc16 (bytes.take (length.toNat + 3))).toNat →
          parseFrame bytes = some (tag, kind, rest.take length.toNat)))
  ∧ (∀ bytes : List Byte, bytes.length < 3 → parseFrame bytes = none)

/-- A break on a line that is read clears the link: ring, write position, frame in reception, transmit list and
completed replies go, what was handed and not answered is cancelled, and the notice set and the counters stay. With a
RESTART's reply discarded the core restarts, its clock domain and record untouched. On a line that is not read nothing
happens (R170, R131). After a break reception resumes, and one NOTICE frame is queued and begins to be sent if the notice
set is not empty (R170, R171); none is queued beside one that waits already. That a reply still among the completed ones
counts as discarded, and that no second NOTICE frame is queued at the end of a break, are the model's choices (log entry
18); so is it that the end of a break changes nothing while the line is read or the core is not awake (log entry 4). -/
def Obligations.BreaksClearTheLink : Prop :=
  (∀ s : State, Settled s →
    (s.link.receiving = false → exec .lineBreak s = .next s)
    ∧ (s.link.receiving = true → s.link.restartQueued = false →
        exec .lineBreak s = .next { s with link :=
          ⟨false, [], 0, none, [], none, [], s.link.cancelled ++ s.link.handed, [], s.link.notices, s.link.overruns,
            s.link.errors, s.link.nextId⟩ })
    ∧ (s.link.receiving = true → s.link.restartQueued = true →
        ∃ t, exec .lineBreak s = .next t ∧ t.supply = Supply.start .starting ∧ t.link = Link.start true
          ∧ t.account = AccountBlock.start ∧ t.switches = Switches.start ∧ t.domain = s.domain
          ∧ ((∀ f, s.provisioning.phase ≠ .programming f) → t.provisioning.otp = s.provisioning.otp)
          ∧ (s.journal.op = .none → t.flash = s.flash)))
  ∧ (∀ s : State, Settled s →
    (s.supply.power.awake = true → s.link.receiving = false → s.link.transmit = [] → s.link.onLine = none →
      exec .lineBreakEnd s = .next { s with link := { s.link with
        receiving := true
        transmit := if s.link.notices = 0 then [] else [.notice (some s.link.notices)]
        onLine := if s.link.notices = 0 then none else some (noticeBytes s.link.notices) } })
    ∧ (s.supply.power.awake = true → s.link.receiving = false →
      ∃ t, exec .lineBreakEnd s = .next t ∧ OnlyLink s t ∧ t.link.receiving = true
        ∧ t.link.replies = s.link.replies ∧ t.link.cancelled = s.link.cancelled
        ∧ (s.link.notices ≠ 0 → ∃ set, TxFrame.notice set ∈ t.link.transmit)
        ∧ ((s.link.transmit.filter (fun x => x = .notice none)).length ≤ 1 →
            (t.link.transmit.filter (fun x => x = .notice none)).length ≤ 1))
    ∧ (s.supply.power.awake = false ∨ s.link.receiving = true → exec .lineBreakEnd s = .next s))

/-- When the last byte of a frame has been sent the frame leaves the list. After a reply the oldest completed reply
moves into the list and its request's bytes leave the ring; after a NOTICE frame the set stays; after the reply to a
RESTART the core restarts (R169, R171, R131). That the command changes nothing with nothing on the line is the model's
choice (log entry 4). -/
def Obligations.SentFramesLeave : Prop :=
  ∀ s : State, Settled s →
    (s.link.onLine = none → exec .frameSent s = .next s)
    ∧ (∀ x rest, s.link.onLine ≠ none → s.link.transmit = x :: rest →
        (∀ set, x = .notice set →
          ∃ t, exec .frameSent s = .next t ∧ OnlyLink s t ∧ t.link.replies = s.link.replies
            ∧ t.link.transmit.length ≤ rest.length
            ∧ (∀ set', .notice (some set') ∈ rest → .notice (some set') ∈ t.link.transmit)
            ∧ t.link.completed = s.link.completed ∧ t.link.held = s.link.held)
        ∧ (∀ r, x = .reply r → r.restarts = false →
          ∃ t, exec .frameSent s = .next t ∧ OnlyLink s t ∧ s.link.replies = r :: s.link.replies.tail
            ∧ t.link.replies = s.link.replies.tail ++ s.link.completed.take 1
            ∧ t.link.completed = s.link.completed.drop 1
            ∧ t.link.held = s.link.held.filter (fun h => h.id ∉ (s.link.completed.take 1).map Reply.id))
        ∧ (∀ r, x = .reply r → r.restarts = true →
          ∃ t, exec .frameSent s = .next t ∧ t.supply = Supply.start .starting ∧ t.link = Link.start true
            ∧ t.account = AccountBlock.start ∧ t.tokens = TokenUnit.start ∧ t.switches = Switches.start
            ∧ t.journal = Journal.start ∧ t.relay = RelayStore.start ∧ t.meter = Meter.start
            ∧ t.domain = s.domain
            ∧ ((∀ f, s.provisioning.phase ≠ .programming f) → t.provisioning.otp = s.provisioning.otp)))

/-- A cause raised while the core is awake joins the notice set, and the set keeps every cause it had. When that takes
the set from empty and no NOTICE frame waits, one joins the tail of the transmit list; otherwise none does (R171). -/
def Obligations.CausesAreRaised : Prop :=
  ∀ (c : NoticeCause) (s : State), s.supply.power.awake = true →
    (raise c s) = { s with link := (raise c s).link }
      ∧ (∀ i, (raise c s).link.notices.getLsbD i = (s.link.notices.getLsbD i || decide (i = c.index)))
      ∧ (raise c s).link.transmit =
          (if s.link.notices = 0 ∧ (∀ x ∈ s.link.transmit, x ≠ .notice none) then s.link.transmit ++ [.notice none]
          else s.link.transmit)
      ∧ (raise c s).link.replies = s.link.replies

/-! ## The clock and the second -/

/-- A second before the last of a minute: the second field rises by 1 and the calendar time, source, condition and
hold stand; the penalty wait falls by 1 to no less than 0; the backup reading is held at 5,000 mV, below 2,400 WEAK,
from 2,500 GOOD, and between them the state stands. So in every power state, but where a low cell stops the clock
domain of a core that is off (R73, R67, R122, R123). The minute arrival at the last second of a minute, in every power
state too: with time set no nothing but the second moves; a clock hold falls by 1; at the last minute of day 65,535 the
clock stands; otherwise the minute rises, and after minute 1439 the day, with the anchor age (R74, R75, R80). -/
def Obligations.SecondsAndMinutesCount : Prop :=
  (∀ (x : Sample) (s : State), s.domain.powered = true → s.domain.clock.second < 59 →
    (s.supply.power ≠ .off ∨ 1800 ≤ x.backup) →
    ∃ t, exec (.secondEvent x) s = .next t
      ∧ t.domain.clock = { s.domain.clock with second := s.domain.clock.second + 1 }
      ∧ t.domain.penalty = { s.domain.penalty with waitRemaining := s.domain.penalty.waitRemaining - 1 }
      ∧ t.domain.powered = true ∧ t.domain.crystalGap = s.domain.crystalGap
      ∧ t.domain.backupReading = min x.backup 5000
      ∧ t.domain.backup = (if x.backup < 2400 then .weak else if 2500 ≤ x.backup then .good else s.domain.backup)
      ∧ t.pending = s.pending ∧ t.flash = s.flash)
  ∧ (∀ (x : Sample) (s : State), s.domain.powered = true → s.domain.clock.second = 59 →
    (s.supply.power ≠ .off ∨ 1800 ≤ x.backup) →
    ∃ t, exec (.secondEvent x) s = .next t ∧ t.domain.clock.second = 0
      ∧ t.domain.clock.source = s.domain.clock.source ∧ t.domain.clock.condition = s.domain.clock.condition
      ∧ (s.domain.clock.timeSet = false → t.domain.clock = { s.domain.clock with second := 0 })
      ∧ (s.domain.clock.timeSet = true → 0 < s.domain.clock.hold →
          t.domain.clock = { s.domain.clock with second := 0, hold := s.domain.clock.hold - 1 })
      ∧ (s.domain.clock.timeSet = true → s.domain.clock.hold = 0 → s.domain.clock.minute ≠ 1439 →
          t.domain.clock = { s.domain.clock with second := 0, minute := s.domain.clock.minute + 1 })
      ∧ (s.domain.clock.timeSet = true → s.domain.clock.hold = 0 → s.domain.clock.minute = 1439 →
          s.domain.clock.day ≠ 65535 →
          t.domain.clock = { s.domain.clock with
            second := 0, minute := 0, day := s.domain.clock.day + 1
            anchorAge := min (s.domain.clock.anchorAge + 1) 65535 })
      ∧ (s.domain.clock.timeSet = true → s.domain.clock.hold = 0 → s.domain.clock.minute = 1439 →
          s.domain.clock.day = 65535 → t.domain.clock = { s.domain.clock with second := 0 }))

/-- A millisecond on an empty queue, which is the model's way of letting time pass below the second (log entry 6): nothing
but the ports' timers and the watch on the crystal moves, and the queue stays empty. While the block is switching, a step
timer and a trip wait fall and an on run rises, each to stand one short of its end, and no state, duty, target or retry
count changes. With the clock domain powered and the source RC, the crystal qualification rises by 1, to no more than 999,
until 4 ms have passed without a crystal edge, and is 0 from then on (R77); whether an edge arrives is a free value. -/
def Obligations.MillisecondsPass : Prop :=
  ∀ s : State, s.pending = [] →
    ∃ (t : State) (edge : Bool), step s = .next t
      ∧ t = { s with
          switches := t.switches, domain := t.domain, idleMilliseconds := s.idleMilliseconds + 1 }
      ∧ t.switches.switching = s.switches.switching
      ∧ (s.switches.switching = false → t.switches = s.switches)
      ∧ (s.switches.switching = true → ∀ i,
          t.switches.ports.get i = { s.switches.ports.get i with
            stepTimer := (t.switches.ports.get i).stepTimer
            tripWait := (t.switches.ports.get i).tripWait
            onRun := (t.switches.ports.get i).onRun }
          ∧ (t.switches.ports.get i).stepTimer =
              (if (s.switches.ports.get i).state = .ramping ∧ 1 < (s.switches.ports.get i).stepTimer then
                (s.switches.ports.get i).stepTimer - 1 else (s.switches.ports.get i).stepTimer)
          ∧ (t.switches.ports.get i).tripWait =
              (if (s.switches.ports.get i).state = .tripWait ∧ 1 < (s.switches.ports.get i).tripWait then
                (s.switches.ports.get i).tripWait - 1 else (s.switches.ports.get i).tripWait)
          ∧ (t.switches.ports.get i).onRun =
              (if (s.switches.ports.get i).state = .on ∧ (s.switches.ports.get i).onRun < 9999 then
                (s.switches.ports.get i).onRun + 1 else (s.switches.ports.get i).onRun))
      ∧ (s.domain.powered = false → t.domain = s.domain)
      ∧ (s.domain.powered = true → s.domain.clock.source = .rc → t.domain = { s.domain with
          crystalGap := if edge then 0 else min (s.domain.crystalGap + 1) 4
          clock := { s.domain.clock with qualification :=
            if edge = true ∨ s.domain.crystalGap < 3 then min (s.domain.clock.qualification + 1) 999 else 0 } })
      ∧ (s.domain.powered = true → s.domain.clock.source = .crystal → t.domain = { s.domain with
          crystalGap := if edge then 0 else min (s.domain.crystalGap + 1) 3 })

/-- A sample of a second in RUN, before any minute arrival and with the battery at or above cutoff: each port's
current reading is its average held at 8,000 mA and taken as 0 below 20 mA, its energy of that second joins residue
and count, and the count's top is held (R91 to R95). The last voltage is the battery reading (R93). That a count at its
top is held from the moment its residue is 0 is the model's choice (log entry 20). A CLEAR port's sense run rises by 1 at a
suspect sample, one of 100 mA or more on a port held at 0 throughout the second, and is 0 after any other; the third
suspect sample in a row takes the port to FAULT, with SENSE_FAULT raised for the ports together, and it stays there while
its reading is 100 mA or more, its sense run 0 (R99, R100, Table 5-5). The answer of each port for
the second that begins is whether its duty was above 0 at the event (R110); that it is set before the reading of the same
second sheds a port is the model's choice (log entry 41). -/
def Obligations.SecondsAreSampled : Prop :=
  ∀ (x : Sample) (s : State) (i : Fin 4), s.domain.powered = true → s.domain.clock.second < 59 →
    s.supply.power = .run → s.meter.sampling = true → s.levels.cutoff ≤ min x.battery 20000 →
    ∃ t, exec (.secondEvent x) s = .next t
      ∧ t.meter.lastVoltage = min x.battery 20000
      ∧ t.supply.battery = min x.battery 20000
      ∧ (t.meter.ports.get i).lastCurrent =
          (if 8000 < x.currents.get i then 8000 else if x.currents.get i < 20 then 0 else x.currents.get i)
      ∧ ((s.meter.ports.get i).count
            + ((s.meter.ports.get i).residue
              + min x.battery 20000 * (t.meter.ports.get i).lastCurrent) / 3600000 ≤ 4294967295 →
          ¬((s.meter.ports.get i).count = 4294967295 ∧ (s.meter.ports.get i).residue = 0) →
          (t.meter.ports.get i).count * 3600000 + (t.meter.ports.get i).residue
            = (s.meter.ports.get i).count * 3600000 + (s.meter.ports.get i).residue
              + min x.battery 20000 * (t.meter.ports.get i).lastCurrent
          ∧ (t.meter.ports.get i).residue < 3600000)
      ∧ (4294967295 < (s.meter.ports.get i).count
            + ((s.meter.ports.get i).residue
              + min x.battery 20000 * (t.meter.ports.get i).lastCurrent) / 3600000 →
          (t.meter.ports.get i).count = 4294967295 ∧ (t.meter.ports.get i).residue = 0)
      ∧ ((s.meter.ports.get i).count = 4294967295 → (s.meter.ports.get i).residue = 0 →
          (t.meter.ports.get i).count = 4294967295 ∧ (t.meter.ports.get i).residue = 0)
      ∧ (t.meter.ports.get i).sense =
          (match (s.meter.ports.get i).sense with
            | .clear =>
              if 100 ≤ (t.meter.ports.get i).lastCurrent ∧ (s.switches.ports.get i).driven = false
                ∧ 2 ≤ (s.meter.ports.get i).senseRun then .fault else .clear
            | .fault => if 100 ≤ (t.meter.ports.get i).lastCurrent then .fault else .clear)
      ∧ (t.meter.ports.get i).senseRun =
          (if (s.meter.ports.get i).sense = .clear ∧ 100 ≤ (t.meter.ports.get i).lastCurrent
            ∧ (s.switches.ports.get i).driven = false ∧ (s.meter.ports.get i).senseRun < 2
          then (s.meter.ports.get i).senseRun + 1 else 0)
      ∧ t.link.notices.getLsbD 9 = (s.link.notices.getLsbD 9 || decide (∃ j : Fin 4,
          (s.meter.ports.get j).sense = .clear ∧ (t.meter.ports.get j).sense = .fault))
      ∧ (s.switches.switching = true →
          (t.switches.ports.get i).driven = decide (0 < (s.switches.ports.get i).duty))
      ∧ t.account.acct = s.account.acct

/-- A minute that rises to a multiple of 15 in RUN, the account provisioned, the battery at or above cutoff: unpinned,
the tally is performed at once for that time with the counts the meter holds, which are those before the second's
sample when the minute arrives first and those after it otherwise; pinned, it is recorded as pending and the account
stands (R6, R21, R96). A minute that rises past 1439 begins the next day: its point is minute 0, so that the day boundary
follows the tally (R32), with TARIFF_APPLIED raised when a tariff was staged (R33), and the Relay Store sweeps the records
whose expiry day and the receipts whose created day plus 14 lie below the new day (R75, R161). The caps of the account as
it then stands are given (R24), ACCOUNT_STATE is raised when the account's state has changed, LOW_CREDIT when the tally
calls for it, and TARIFF_APPLIED when the boundary does (R25, R33); and the clock shows the point's day and minute, second
0 (R74, R75, R80). -/
def Obligations.TallyPointsAreTaken : Prop :=
  ∀ (x : Sample) (s : State) (day minute : Nat), s.domain.powered = true → s.domain.clock.second = 59 →
    s.domain.clock.timeSet = true → s.domain.clock.hold = 0 →
    (s.domain.clock.minute ≠ 1439 ∧ day = s.domain.clock.day ∧ minute = s.domain.clock.minute + 1
      ∨ s.domain.clock.minute = 1439 ∧ s.domain.clock.day ≠ 65535 ∧ day = s.domain.clock.day + 1 ∧ minute = 0) →
    minute % 15 = 0 →
    s.supply.power = .run → s.account.acct.state ≠ .unprovisioned → s.levels.cutoff ≤ min x.battery 20000 →
    ∃ t, exec (.secondEvent x) s = .next t
      ∧ (s.account.pinned = false →
          t.account = { s.account with acct := (tallyAndBoundary s.provisioning.settings
            (if x.order = .minuteFirst then s.meter.counts else t.meter.counts) ⟨day, minute⟩ s.account.acct).acct }
          ∧ (minute = 0 → s.account.acct.stagedTariff ≠ none → t.link.notices.getLsbD 3 = true)
          ∧ (∀ c : Charged, c = tallyAndBoundary s.provisioning.settings
              (if x.order = .minuteFirst then s.meter.counts else t.meter.counts) ⟨day, minute⟩ s.account.acct →
            t.link.notices.getLsbD 0 = (s.link.notices.getLsbD 0 || decide (c.acct.state ≠ s.account.acct.state))
              ∧ t.link.notices.getLsbD 1 = (s.link.notices.getLsbD 1 || c.lowCredit)
              ∧ t.link.notices.getLsbD 3 = (s.link.notices.getLsbD 3 || c.tariffApplied))
          ∧ (s.switches.switching = true → ∀ i, (t.switches.ports.get i).accountCap =
              (accountCaps (tariffOf s.provisioning.settings t.account.acct.activeTariff) t.account.acct).get i))
      ∧ (s.account.pinned = true → t.account = { s.account with pendingTally := some ⟨day, minute⟩ })
      ∧ t.domain.clock = { s.domain.clock with
          day := day, minute := minute, second := 0
          anchorAge := if s.domain.clock.minute = 1439 then min (s.domain.clock.anchorAge + 1) 65535
            else s.domain.clock.anchorAge }
      ∧ (Settled s → t.relay =
          (if minute = 0 then { s.relay with
            records := s.relay.records.filter (fun r => day ≤ r.expiryDay)
            receipts := s.relay.receipts.filter (fun r => day ≤ r.created + 14) }
          else s.relay))

/-- A battery reading below cutoff in RUN begins holdover: the link stops, the duties are 0 and switching is no,
sampling is no, the digests and the store's requests are abandoned, and of the intake only an entry in flight is kept.
A provisioned part whose journal is not FAILED submits its SUSPEND entry; one whose journal is FAILED, or an
unprovisioned one, goes off (R124, R118, R101, R69, R70, R163, R125). The sample of that second is taken and never charged
(R93): a minute that arrives with it takes no tally, unless it is taken first, before the sample. That a block of a
core that has gone off shows start values is the model's choice (log entry 12). -/
def Obligations.HoldoverBegins : Prop :=
  (∀ (x : Sample) (s : State), s.domain.powered = true → s.domain.clock.second < 59 → s.supply.power = .run →
    s.switches.switching = true → min x.battery 20000 < s.levels.cutoff → s.provisioning.inProgress = false →
    ∃ t, exec (.secondEvent x) s = .next t
      ∧ (s.provisioning.provisioned = true → s.journal.failed = false →
          t.supply.power = .holdover ∧ t.supply.restartPending = false ∧ t.switches.switching = false
          ∧ (∀ i, (t.switches.ports.get i).duty = 0 ∧ (t.switches.ports.get i).driven = false
              ∧ (t.switches.ports.get i).state = (s.switches.ports.get i).state)
          ∧ t.meter.sampling = false ∧ t.link.receiving = false ∧ t.link.reception = none ∧ t.link.onLine = none
          ∧ t.digests = [] ∧ t.relay.service = none ∧ t.relay.waiting = []
          ∧ t.relay.records = s.relay.records ∧ t.relay.receipts = s.relay.receipts
          ∧ t.journal.queue = s.journal.queue ++ [.suspend]
          ∧ t.tokens.intake = (if s.tokens.service = .inFlight then s.tokens.intake.take 1 else [])
          ∧ t.account.acct = s.account.acct)
      ∧ (s.provisioning.provisioned = false ∨ s.journal.failed = true →
          t.supply.power = .off ∧ t.switches.switching = false ∧ t.link.receiving = false))
  ∧ (∀ (x : Sample) (s : State), s.domain.powered = true → s.domain.clock.second = 59 → s.supply.power = .run →
    s.provisioning.provisioned = true → s.journal.failed = false → s.meter.sampling = true →
    min x.battery 20000 < s.levels.cutoff → x.order ≠ .minuteFirst →
    ∃ t, exec (.secondEvent x) s = .next t ∧ t.supply.power = .holdover ∧ t.account = s.account
      ∧ t.meter.lastVoltage = min x.battery 20000 ∧ t.journal.queue = s.journal.queue ++ [.suspend])

/-- With the core off, a backup cell below 1,800 mV stops the clock domain, and otherwise a battery at or above the
restart level powers the core, which is STARTING with its link receiving (R123, R127, R128). That the stop comes before
the wake check, so that the domain is left unpowered with the core off whatever the battery reads, until a command of its
own powers it again, is the model's choice (log entry 29). -/
def Obligations.SleepingSeconds : Prop :=
  ∀ (x : Sample) (s : State), s.domain.powered = true → s.supply.power = .off →
    (x.backup < 1800 → ∃ t, exec (.secondEvent x) s = .next t ∧ t.domain.powered = false ∧ t.supply.power = .off)
    ∧ (1800 ≤ x.backup → s.levels.restartLevel ≤ min x.battery 20000 →
        ∃ t, exec (.secondEvent x) s = .next t ∧ t.domain.powered = true
          ∧ t.supply = Supply.start .starting ∧ t.link = Link.start true ∧ t.switches = Switches.start)
    ∧ (1800 ≤ x.backup → min x.battery 20000 < s.levels.restartLevel →
        ∃ t, exec (.secondEvent x) s = .next t ∧ t.domain.powered = true ∧ t.supply.power = .off)

/-- What a battery reading does, at a second that brings no minute. In RUN, at or above cutoff, the shed level becomes the
greater of the number of thresholds the reading lies below and the number of thresholds up to the level in force that it
lies below with the hysteresis added; without a record it becomes 0. When the level changes, SHED_LEVEL is raised and each
port's shed cap becomes 0 at a level at or above its rank and 1000 otherwise, a port that is shed and keeps what its state
promises being at duty 0 at once; when it does not, the shed caps stand (R120, R121, R106, R108). In STARTING, before the
start event, a reading at or above the restart level raises the filter count, and at 60 replay is asked for, once; one at
or above cutoff and below the restart level makes the count 0 and does not withdraw the replay; and one below cutoff gives
the start up: the core goes off at once, or, with a flash operation in progress, the intake is dropped and the core waits
for its end (R129). The mark that waits is the model's (log entry 37), and the start values of a core that is off are too
(log entry 12). -/
def Obligations.ReadingsAreActedOn : Prop :=
  (∀ (x : Sample) (s : State) (v : Nat), s.domain.powered = true → s.domain.clock.second < 59 →
    s.supply.power = .run → s.switches.switching = true → v = min x.battery 20000 → s.levels.cutoff ≤ v →
    ∃ t, exec (.secondEvent x) s = .next t ∧ t.supply.power = .run ∧ t.supply.battery = v
      ∧ (s.provisioning.provisioned = true → ∀ f, f = s.provisioning.settings →
          t.supply.shedLevel = max
            ((if v < f.f1 then 1 else 0) + (if v < f.f2 then 1 else 0) + (if v < f.f3 then 1 else 0))
            ((if 1 ≤ s.supply.shedLevel ∧ v < f.f1 + f.hysteresis then 1 else 0)
              + (if 2 ≤ s.supply.shedLevel ∧ v < f.f2 + f.hysteresis then 1 else 0)
              + (if 3 ≤ s.supply.shedLevel ∧ v < f.f3 + f.hysteresis then 1 else 0)))
      ∧ (s.provisioning.provisioned = false → t.supply.shedLevel = 0)
      ∧ t.link.notices.getLsbD 6 = (s.link.notices.getLsbD 6 || decide (t.supply.shedLevel ≠ s.supply.shedLevel))
      ∧ (t.supply.shedLevel = s.supply.shedLevel → ∀ i,
          (t.switches.ports.get i).shedCap = (s.switches.ports.get i).shedCap
            ∧ (t.switches.ports.get i).duty = (s.switches.ports.get i).duty)
      ∧ (t.supply.shedLevel ≠ s.supply.shedLevel → ∀ i,
          (t.switches.ports.get i).shedCap =
            (if s.provisioning.settings.shedRanks.get i ≤ t.supply.shedLevel then 0 else 1000)
          ∧ (PortsOk s → s.provisioning.settings.shedRanks.get i ≤ t.supply.shedLevel →
              (t.switches.ports.get i).duty = 0)))
  ∧ (∀ (x : Sample) (s : State) (v : Nat), s.domain.powered = true → s.domain.clock.second < 59 →
    s.supply.power = .starting → s.supply.givenUp = false → v = min x.battery 20000 →
    ∃ t, exec (.secondEvent x) s = .next t ∧ (s.levels.cutoff ≤ v → t.supply.power = .starting ∧ t.supply.battery = v)
      ∧ (s.levels.restartLevel ≤ v →
          t.supply.filter = min (s.supply.filter + 1) 60
          ∧ (s.supply.filter + 1 < 60 ∨ s.supply.replay ≠ .notAsked → t.supply.replay = s.supply.replay)
          ∧ (60 ≤ s.supply.filter + 1 → s.supply.replay = .notAsked →
              (s.provisioning.condition ≠ .valid → t.supply.replay = .done none)
              ∧ (s.provisioning.condition = .valid →
                  t.supply.replay = (runReplay s).supply.replay ∧ t.supply.replay ≠ .notAsked)))
      ∧ (s.levels.cutoff ≤ v → v < s.levels.restartLevel →
          t.supply.filter = 0 ∧ t.supply.replay = s.supply.replay)
      ∧ (v < s.levels.cutoff →
          (s.journal.op = .none → t.supply.power = .off ∧ t.tokens.intake = [])
          ∧ (s.journal.op ≠ .none → t.supply.power = .starting ∧ t.supply.givenUp = true ∧ t.tokens.intake = []
              ∧ t.tokens.service = .idle ∧ t.journal.op = s.journal.op)))

/-- A crystal qualified while the source is RC becomes the source, a gap while it is the source gives it up to the RC,
both with the qualification at 0, and a gap while the source is RC clears the qualification, in every power state and with
the core off too (R77, R78, R89). The first two raise CLOCK_SOURCE: into the set in STARTING and RUN, where a NOTICE frame
is queued when the set was empty and none waits (R171); into the set alone in HOLDOVER; and nowhere with the core off, where
the cause is lost (R89). The end of a penalty wait takes its last second, the count and the wait's length standing, and with
another number of seconds left the wait goes on (R67). These are the model's choices: that a command changes nothing where
the source is not the one it speaks of, or where the wait does not end (log entry 4); that CRYSTAL_QUALIFIED acts whatever
the qualification reads (log entry 5); the gap that each of the crystal's commands leaves, a field of the model's (log entry
6); that a cause joins the set in HOLDOVER and queues no frame (log entry 19); and that a core that is off keeps no cause
(log entry 12). -/
def Obligations.ClockDomainEvents : Prop :=
  (∀ s : State, Settled s → s.domain.powered = true →
    (s.domain.clock.source = .rc →
      (∃ t, exec .crystalQualified s = .next t
        ∧ t = { s with
            domain := { s.domain with
              clock := { s.domain.clock with source := .crystal, qualification := 0 }, crystalGap := 0 }
            link := t.link }
        ∧ SourceRaised s t)
      ∧ exec .crystalGap s = .next s
      ∧ exec .crystalQualificationReset s = .next { s with
          domain := { s.domain with clock := { s.domain.clock with qualification := 0 }, crystalGap := 4 } })
    ∧ (s.domain.clock.source = .crystal →
      (∃ t, exec .crystalGap s = .next t
        ∧ t = { s with
            domain := { s.domain with clock := { s.domain.clock with source := .rc, qualification := 0 }, crystalGap := 4 }
            link := t.link }
        ∧ SourceRaised s t)
      ∧ exec .crystalQualified s = .next s ∧ exec .crystalQualificationReset s = .next s))
  ∧ (∀ s : State, Settled s → s.domain.powered = true →
    (s.domain.penalty.waitRemaining = 1 →
      exec .penaltyWaitEnd s = .next { s with
        domain := { s.domain with penalty := { s.domain.penalty with waitRemaining := 0 } } })
    ∧ (s.domain.penalty.waitRemaining ≠ 1 → exec .penaltyWaitEnd s = .next s))

/-! ## The account -/

/-- The stages of a tally: the standing charge is a 96th of S with its remainder carried in rs; the allowance covers
the priced ports in port order; the energy charge is the sum of chargeable energy × price with its remainder carried
in re; the marks become the counts (R7 to R10). In ACTIVE a charge below the balance is taken from it and counted in
Ht (R10). -/
def Obligations.TalliesCharge : Prop :=
  ∀ (t : Tariff) (counts : PerPort Nat) (point : ClockTime) (a : Account),
    ∃ (charge left : Nat) (chargeable : PerPort Nat),
      charge = (a.rs + t.standing) / 96
        + (a.re + (chargeable.p0 * t.prices.p0 + chargeable.p1 * t.prices.p1 + chargeable.p2 * t.prices.p2
          + chargeable.p3 * t.prices.p3)) / 1000000
      ∧ (∀ i, t.prices.get i = 0 → chargeable.get i = 0)
      ∧ (∀ i, chargeable.get i ≤ counts.get i - a.marks.get i)
      ∧ (∀ i j, i < j → t.prices.get i ≠ 0 → t.prices.get j ≠ 0 → chargeable.get i ≠ 0 →
          chargeable.get j = counts.get j - a.marks.get j)
      ∧ left + ((if t.prices.p0 = 0 then 0 else counts.p0 - a.marks.p0 - chargeable.p0)
          + (if t.prices.p1 = 0 then 0 else counts.p1 - a.marks.p1 - chargeable.p1)
          + (if t.prices.p2 = 0 then 0 else counts.p2 - a.marks.p2 - chargeable.p2)
          + (if t.prices.p3 = 0 then 0 else counts.p3 - a.marks.p3 - chargeable.p3)) = a.allowance
      ∧ (left ≠ 0 → ∀ i, chargeable.get i = 0)
      ∧ (a.state = .active → charge < a.balance →
          tallyAccount t counts point a = { a with
            balance := a.balance - charge, ht := a.ht + charge, rs := (a.rs + t.standing) % 96
            re := (a.re + (chargeable.p0 * t.prices.p0 + chargeable.p1 * t.prices.p1 + chargeable.p2 * t.prices.p2
              + chargeable.p3 * t.prices.p3)) % 1000000
            allowance := left, marks := counts, lastTally := point })

/-- A charge at or above an ACTIVE balance exhausts it: with grace armed, G above 0 and the excess within the debt
limit the account is in GRACE with the excess as debt and a budget of G × 1440 minutes; with the excess above the
limit it is LOCKED with debt at the limit, grace still armed; otherwise LOCKED with the lesser of excess and limit as
debt (R11). A tally that starts in GRACE adds its charge to debt up to the limit, uses 15 minutes, and locks the
account when the budget is 0 or the limit is reached, raising no LOW_CREDIT (R12). -/
def Obligations.ExhaustionAndGrace : Prop :=
  ∀ (f : Settings) (counts : PerPort Nat) (point : ClockTime) (a b : Account) (t : Tariff) (charge excess : Nat),
    t = tariffOf f a.activeTariff → b = tallyAccount t counts point a → charge = (tallyStages t counts a).1 →
      excess = charge - a.balance →
      (a.state = .active → a.balance ≤ charge →
        b.balance = 0
        ∧ (a.graceArmed = true → 0 < t.graceDays → excess ≤ t.debtLimit →
            b.state = .grace ∧ b.debt = excess ∧ b.graceBudget = t.graceDays * 1440 ∧ b.graceArmed = false
              ∧ b.ht = a.ht + charge)
        ∧ (a.graceArmed = true → 0 < t.graceDays → t.debtLimit < excess →
            b.state = .locked ∧ b.debt = t.debtLimit ∧ b.graceArmed = true
              ∧ b.ht = a.ht + a.balance + t.debtLimit)
        ∧ (a.graceArmed = false ∨ t.graceDays = 0 →
            b.state = .locked ∧ b.debt = min excess t.debtLimit ∧ b.graceArmed = a.graceArmed
              ∧ b.ht = a.ht + a.balance + min excess t.debtLimit))
      ∧ (a.state = .grace →
        b.debt = a.debt + min charge (t.debtLimit - a.debt) ∧ b.ht = a.ht + min charge (t.debtLimit - a.debt)
        ∧ b.balance = a.balance ∧ b.ct = a.ct ∧ b.ft = a.ft ∧ b.vt = a.vt ∧ b.graceArmed = a.graceArmed
        ∧ (a.graceBudget ≤ 15 ∨ t.debtLimit ≤ b.debt → b.state = .locked ∧ b.graceBudget = 0)
        ∧ (15 < a.graceBudget → b.debt < t.debtLimit → b.state = .grace ∧ b.graceBudget = a.graceBudget - 15)
        ∧ lowersCredit t a b = false)

/-- A tally that starts in LOCKED or PAID_OFF advances the marks to the counts and sets the time of last tally, and
leaves everything else of the account; no tally is taken in UNPROVISIONED; and Ht does not rise in LOCKED, PAID_OFF or
UNPROVISIONED, by a tally or by a catch-up. A tally whose minute is on the hour submits a TALLY entry (R13). -/
def Obligations.RetiredTallies : Prop :=
  ∀ (f : Settings) (t : Tariff) (counts : PerPort Nat) (point : ClockTime) (a : Account),
    (a.state = .locked ∨ a.state = .paidOff →
      tallyAccount t counts point a = { a with marks := counts, lastTally := point })
    ∧ (a.state = .unprovisioned → tallyAccount t counts point a = a)
    ∧ (a.state = .locked ∨ a.state = .paidOff ∨ a.state = .unprovisioned →
        (tallyAndBoundary f counts point a).acct.ht = a.ht
        ∧ ∀ n crossing upTo, (catchUp f n crossing upTo a).acct.ht = a.ht)
    ∧ (∀ s : State, s.account.acct.state = .unprovisioned → takeTallyPoint point s = s)
    ∧ (∀ s : State, (performTally point s).journal =
        if point.minute % 60 = 0 then (submitTally false s).journal else s.journal)

/-- The effects of tokens on the account. RELOCK voids the balance and forgives the debt, leaves the account LOCKED with
no budget and no staged tariff, and arms grace when G is above 0 (R19). GRANT_GRACE of d days takes a LOCKED account below
its debt limit to GRACE with d × 1440 minutes, and adds them in GRACE up to 10,080; elsewhere it is not applicable; it
moves no money (R20). A credit repays debt first, and a balance above 0 makes the account ACTIVE (R17). FORGIVE_DEBT
lowers the debt by its amount, to no less than 0, and PAYOFF removes all of it and makes the account PAID_OFF with no
budget, each adding what it removes to Ft and leaving the rest; PAYOFF leaves a PAID_OFF account, whose debt and budget
are 0, as it was; FORGIVE_DEBT is not applicable with debt 0 or in PAID_OFF (R18). SET_TARIFF stages its number, or with
the active number clears what is staged, and changes nothing else; it is not applicable in PAID_OFF or with a number that
no entry of the table has (R30). -/
def Obligations.TokenEffects : Prop :=
  ∀ (f : Settings) (a : Account) (d amount : Nat) (t : Tariff), t = tariffOf f a.activeTariff →
    (relock t a = { a with
      vt := a.vt + a.balance, ft := a.ft + a.debt, balance := 0, debt := 0, state := .locked, graceBudget := 0
      stagedTariff := none, graceArmed := decide (0 < t.graceDays) })
    ∧ (a.balance + a.ht + a.vt = a.debt + a.ct + a.ft →
        (relock t a).ht + (relock t a).vt = (relock t a).ct + (relock t a).ft)
    ∧ (a.state = .locked → a.debt < t.debtLimit → applicable f .grantGrace d a = true
        ∧ grantGrace d a = { a with state := .grace, graceBudget := d * 1440, graceArmed := false })
    ∧ (a.state = .grace → applicable f .grantGrace d a = true
        ∧ grantGrace d a = { a with graceBudget := min (a.graceBudget + d * 1440) 10080 })
    ∧ ((a.state ≠ .locked ∧ a.state ≠ .grace) ∨ (a.state = .locked ∧ t.debtLimit ≤ a.debt) →
        applicable f .grantGrace d a = false)
    ∧ (amount ≤ a.debt →
        (creditAccount t amount a).debt = a.debt - amount ∧ (creditAccount t amount a).balance = a.balance)
    ∧ (a.debt < amount →
        (creditAccount t amount a).debt = 0 ∧ (creditAccount t amount a).balance = a.balance + (amount - a.debt)
        ∧ (creditAccount t amount a).state = .active ∧ (creditAccount t amount a).graceBudget = 0
        ∧ (creditAccount t amount a).graceArmed =
            (a.graceArmed || decide (t.standing ≤ a.balance + (amount - a.debt) ∧ 0 < t.graceDays)))
    ∧ (creditAccount t amount a).ct = a.ct + amount
    ∧ (forgiveDebt amount a = { a with debt := a.debt - amount, ft := a.ft + min amount a.debt })
    ∧ (applicable f .forgiveDebt d a = true ↔ a.state ≠ .paidOff ∧ a.debt ≠ 0)
    ∧ (payOff a = { a with ft := a.ft + a.debt, debt := 0, state := .paidOff, graceBudget := 0 })
    ∧ (AccountOk a → a.state = .paidOff → payOff a = a)
    ∧ applicable f .payOff d a = true ∧ applicable f .relock d a = true ∧ applicable f .setTime d a = true
    ∧ stageTariff a.activeTariff a = { a with stagedTariff := none }
    ∧ (d ≠ a.activeTariff → stageTariff d a = { a with stagedTariff := some d })
    ∧ (applicable f .setTariff d a = true ↔ a.state ≠ .paidOff ∧ ∃ x ∈ f.tariffs, x.number = d)
    ∧ (∀ v, applyToken f .addCredit v a = creditAccount t (v % 4096 * 10 ^ (v / 4096)) a
        ∧ applyToken f .addDays v a = creditAccount t (v * t.standing) a
        ∧ applyToken f .setTariff v a = stageTariff v a ∧ applyToken f .payOff v a = payOff a
        ∧ applyToken f .relock v a = relock t a ∧ applyToken f .setTime v a = a
        ∧ applyToken f .grantGrace v a = grantGrace v a
        ∧ applyToken f .forgiveDebt v a = forgiveDebt (v % 4096 * 10 ^ (v / 4096)) a)

/-- The day boundary. A staged tariff becomes the active one and none is staged; a GRACE account whose debt exceeds the
new debt limit is then LOCKED with no budget, the debt kept; and the allowance left becomes that of the tariff then
active, whether or not one was activated. Everything else of the account stands: the remainders, the counters, the marks,
grace armed, and a GRACE account's budget where it stays in GRACE (R32 to R36). A boundary follows a tally at minute 0 and
no other, after that tally's charge under the tariff before it, and TARIFF_APPLIED is called for exactly when a tariff is
activated (R29, R32, R33). -/
def Obligations.DaysBegin : Prop :=
  ∀ (f : Settings) (a : Account),
    (a.stagedTariff = none → dayBoundary f a = { a with allowance := (tariffOf f a.activeTariff).allowance })
    ∧ (∀ n, a.stagedTariff = some n →
        (a.state = .grace → (tariffOf f n).debtLimit < a.debt →
          dayBoundary f a = { a with
            activeTariff := n, stagedTariff := none, state := .locked, graceBudget := 0
            allowance := (tariffOf f n).allowance })
        ∧ (a.state ≠ .grace ∨ a.debt ≤ (tariffOf f n).debtLimit →
          dayBoundary f a = { a with
            activeTariff := n, stagedTariff := none, allowance := (tariffOf f n).allowance }))
    ∧ (∀ (counts : PerPort Nat) (point : ClockTime) (b : Account) (c : Charged),
        b = tallyAccount (tariffOf f a.activeTariff) counts point a → c = tallyAndBoundary f counts point a →
        (point.minute = 0 → c.acct = dayBoundary f b ∧ c.tariffApplied = a.stagedTariff.isSome)
        ∧ (point.minute ≠ 0 → c.acct = b ∧ c.tariffApplied = false)
        ∧ b.activeTariff = a.activeTariff ∧ b.stagedTariff = a.stagedTariff
        ∧ (c.lowCredit = true ↔ a.state = .active ∧ 0 < (tariffOf f a.activeTariff).standing
            ∧ (tariffOf f a.activeTariff).standing ≤ a.balance
            ∧ b.balance < (tariffOf f a.activeTariff).standing))

/-- A catch-up of n intervals, under the tariff active when it starts (R15). The charge is a 96th of n × S with the
remainder carried in rs, and there is no energy in it: marks, re and allowance left stand. In ACTIVE a charge below the
balance is taken from it, and one at or above it exhausts the account as a tally does. In GRACE the charge is added to
the debt up to the limit, the budget falls by 15 × n, and the account is LOCKED when the budget is 0 or the limit is
reached. In LOCKED and PAID_OFF nothing is charged. LOW_CREDIT is called for when the balance of an ACTIVE account falls
below S from S or more. Then the time of last tally becomes the latest tally point at or before the time given, and with
the crossing flag one day boundary follows (R16). -/
def Obligations.CatchUpsCharge : Prop :=
  ∀ (f : Settings) (n : Nat) (upTo : ClockTime) (a b : Account) (t : Tariff) (charge excess : Nat),
    t = tariffOf f a.activeTariff → charge = (a.rs + n * t.standing) / 96 → excess = charge - a.balance →
      b = (catchUp f n false upTo a).acct →
      b.lastTally.day * 1440 + b.lastTally.minute = 15 * ((upTo.day * 1440 + upTo.minute) / 15)
      ∧ b.lastTally.minute < 1440
      ∧ b.marks = a.marks ∧ b.re = a.re ∧ b.allowance = a.allowance ∧ b.activeTariff = a.activeTariff
      ∧ b.stagedTariff = a.stagedTariff ∧ b.ct = a.ct ∧ b.ft = a.ft ∧ b.vt = a.vt
      ∧ (a.state = .active →
          b.rs = (a.rs + n * t.standing) % 96
          ∧ (charge < a.balance →
              b.state = .active ∧ b.balance = a.balance - charge ∧ b.ht = a.ht + charge ∧ b.debt = a.debt
                ∧ b.graceBudget = a.graceBudget ∧ b.graceArmed = a.graceArmed)
          ∧ (a.balance ≤ charge →
              b.balance = 0
              ∧ (a.graceArmed = true → 0 < t.graceDays → excess ≤ t.debtLimit →
                  b.state = .grace ∧ b.debt = excess ∧ b.graceBudget = t.graceDays * 1440 ∧ b.graceArmed = false
                    ∧ b.ht = a.ht + charge)
              ∧ (a.graceArmed = true → 0 < t.graceDays → t.debtLimit < excess →
                  b.state = .locked ∧ b.debt = t.debtLimit ∧ b.graceArmed = true
                    ∧ b.ht = a.ht + a.balance + t.debtLimit)
              ∧ (a.graceArmed = false ∨ t.graceDays = 0 →
                  b.state = .locked ∧ b.debt = min excess t.debtLimit ∧ b.graceArmed = a.graceArmed
                    ∧ b.ht = a.ht + a.balance + min excess t.debtLimit)))
      ∧ (a.state = .grace →
          b.rs = (a.rs + n * t.standing) % 96
          ∧ b.debt = a.debt + min charge (t.debtLimit - a.debt) ∧ b.ht = a.ht + min charge (t.debtLimit - a.debt)
          ∧ b.balance = a.balance ∧ b.graceArmed = a.graceArmed
          ∧ (a.graceBudget ≤ 15 * n ∨ t.debtLimit ≤ b.debt → b.state = .locked ∧ b.graceBudget = 0)
          ∧ (15 * n < a.graceBudget → b.debt < t.debtLimit →
              b.state = .grace ∧ b.graceBudget = a.graceBudget - 15 * n))
      ∧ (a.state = .locked ∨ a.state = .paidOff ∨ a.state = .unprovisioned → b = { a with lastTally := b.lastTally })
      ∧ (catchUp f n true upTo a).acct = dayBoundary f b
      ∧ (catchUp f n true upTo a).tariffApplied = a.stagedTariff.isSome
      ∧ (catchUp f n false upTo a).tariffApplied = false
      ∧ (∀ crossing, (catchUp f n crossing upTo a).lowCredit = true ↔
          a.state = .active ∧ 0 < t.standing ∧ t.standing ≤ a.balance ∧ b.balance < t.standing)

/-- The caps of an account: 1000 on the port set of its tariff in ACTIVE, the grace duty on the grace port set in GRACE,
1000 on every port in PAID_OFF, and 0 elsewhere (R24, Table 1-5). Given, each port records its own, its target is the
least of demand duty, account cap and shed cap, or 0 with demand OFF, and a port that keeps what its state promises has
no more duty than its new cap, at once, and no more than it had (R104, R105, R108, R113). -/
def Obligations.CapsFollowTheAccount : Prop :=
  (∀ (t : Tariff) (a : Account) (i : Fin 4),
    (accountCaps t a).get i = (match a.state with
      | .active => if t.portSet.get i then 1000 else 0
      | .grace => if t.gracePorts.get i then t.graceDuty else 0
      | .paidOff => 1000
      | .locked => 0
      | .unprovisioned => 0))
  ∧ (∀ s : State, s.switches.switching = true → PortsOk s →
    (giveCaps s) = { s with switches := (giveCaps s).switches } ∧ (giveCaps s).switches.switching = true
      ∧ PortsOk (giveCaps s)
      ∧ ∀ (i : Fin 4) (p q : Port) (cap : Nat), p = s.switches.ports.get i → q = (giveCaps s).switches.ports.get i →
          cap = (accountCaps (tariffOf s.provisioning.settings s.account.acct.activeTariff) s.account.acct).get i →
          q.accountCap = cap ∧ q.demand = p.demand ∧ q.demandDuty = p.demandDuty ∧ q.shedCap = p.shedCap
            ∧ q.retry = p.retry ∧ q.target = (if p.demand then min p.demandDuty (min cap p.shedCap) else 0)
            ∧ q.duty = min p.duty q.target
            ∧ (q.state = p.state ∨ p.state = .barred ∨ p.state = .ramping ∨ p.state = .on))

/-- Anchors. The one computed for a token of any kind but SET_TIME is, from its issue day alone, a MOVE to minute 0 of a
day ahead of the clock's, crossing, CONFIRM for today or yesterday, and NONE for an older day; for a SET_TIME it is a MOVE
to a target later than now, CONFIRM at now and HOLD against an earlier one. A MOVE counts the tally points from now to its
target, held at C × 96, and none in SERVICE mode (R81 to R84, R37). At the commit a MOVE takes a clock that is earlier
than its target there, second 0, and clears the hold; CONFIRM clears the hold for a SET_TIME alone; HOLD holds the
difference in minutes, at most 1440; each leaves the clock RUNNING with anchor age 0 and its source as it was, NONE
changes nothing, and a crossing MOVE that moves the clock hands its day to the Relay Store (R79, R80, R85). -/
def Obligations.AnchorsAreMade : Prop :=
  (∀ (t : Tariff) (now : ClockTime) (k : TokenKind) (issue value : Nat),
    now.minute < 1440 → value < 1440 →
    ∃ n : Nat → Nat,
      (∀ m, n m = (if t.mode = .service then 0
        else min ((issue * 1440 + m) / 15 - (now.day * 1440 + now.minute) / 15) (t.catchUpCap * 96)))
      ∧ (k ≠ .setTime →
          (now.day < issue → anchorFor t now k issue value = .move ⟨issue, 0⟩ (n 0) true)
          ∧ (issue ≤ now.day → now.day ≤ issue + 1 → anchorFor t now k issue value = .confirm)
          ∧ (issue + 1 < now.day → anchorFor t now k issue value = .none))
      ∧ (k = .setTime →
          (now.day * 1440 + now.minute < issue * 1440 + value →
            anchorFor t now k issue value = .move ⟨issue, value⟩ (n value) (decide (now.day < issue)))
          ∧ (now = ⟨issue, value⟩ → anchorFor t now k issue value = .confirm)
          ∧ (issue * 1440 + value < now.day * 1440 + now.minute →
            anchorFor t now k issue value = .hold ⟨issue, value⟩)))
  ∧ (∀ (c : DayClock) (setTime crossing : Bool) (target : ClockTime) (n : Nat),
    c.minute < 1440 → target.minute < 1440 →
    c.makeAnchor setTime .none = c ∧ c.anchorDayChange .none = none
      ∧ c.makeAnchor setTime .confirm =
          { c with condition := .running, anchorAge := 0, hold := if setTime then 0 else c.hold }
      ∧ c.anchorDayChange .confirm = none
      ∧ c.makeAnchor setTime (.hold target) = { c with
          condition := .running, anchorAge := 0
          hold := min (c.day * 1440 + c.minute - (target.day * 1440 + target.minute)) 1440 }
      ∧ c.anchorDayChange (.hold target) = none
      ∧ (c.day * 1440 + c.minute < target.day * 1440 + target.minute →
          c.makeAnchor setTime (.move target n crossing) = { c with
            day := target.day, minute := target.minute, second := 0, hold := 0, condition := .running, anchorAge := 0 }
          ∧ c.anchorDayChange (.move target n crossing) = (if crossing then some target.day else none))
      ∧ (target.day * 1440 + target.minute ≤ c.day * 1440 + c.minute →
          c.makeAnchor setTime (.move target n crossing) =
            { c with hold := 0, condition := .running, anchorAge := 0 }
          ∧ c.anchorDayChange (.move target n crossing) = none))

/-! ## The ports -/

/-- What stops or times a port. A current above its limit trips a port in RAMPING or ON: its duty is 0 and PORT_TRIP is
raised; with a retry left the port waits 5,000 ms in TRIP_WAIT with the count one higher, and with the count at 3 it is
LATCHED and PORT_LATCHED is raised too; a current at or below the limit, and a port in any other state, change nothing
(R111, R117). A ramp step raises a RAMPING port's duty by 250 and by no more than what is left to its target; at the
target the port is ON with the on run at 0, and below it the step timer starts again at 100 ms (R109). The end of a trip
wait takes a port in TRIP_WAIT to RAMPING from duty 0 with the step timer at 100 ms if its target is above 0, and to
BARRED otherwise; the retry count is kept (R112). The completion of an on run makes the retry count of a port in ON 0
(R114). That each end acts whatever its timer reads is the model's choice (log entry 5), and so is it that a port in
another state is left as it was (log entry 4). -/
def Obligations.TripsAndTimers : Prop :=
  (∀ (i : Fin 4) (current : Nat) (s : State), Settled s → s.supply.power.awake = true → s.switches.switching = true →
    (((s.switches.ports.get i).state = .ramping ∨ (s.switches.ports.get i).state = .on) →
      s.provisioning.settings.currentLimits.get i < current →
      ((s.switches.ports.get i).retry < 3 →
        ∃ t, exec (.trip i current) s = .next t
          ∧ t.link.notices = s.link.notices ||| 0x0080#16 ∧ t.link.replies = s.link.replies
          ∧ t = { s.withPort i { s.switches.ports.get i with
              state := .tripWait, duty := 0, stepTimer := 0, onRun := 0, tripWait := 5000
              retry := (s.switches.ports.get i).retry + 1 } with link := t.link })
      ∧ (3 ≤ (s.switches.ports.get i).retry →
        ∃ t, exec (.trip i current) s = .next t
          ∧ t.link.notices = s.link.notices ||| 0x0180#16 ∧ t.link.replies = s.link.replies
          ∧ t = { s.withPort i { s.switches.ports.get i with
              state := .latched, duty := 0, stepTimer := 0, onRun := 0 } with link := t.link }))
    ∧ (((s.switches.ports.get i).state ≠ .ramping ∧ (s.switches.ports.get i).state ≠ .on)
        ∨ current ≤ s.provisioning.settings.currentLimits.get i → exec (.trip i current) s = .next s))
  ∧ (∀ (i : Fin 4) (s : State), Settled s → s.switches.switching = true →
    (∀ p : Port, p = s.switches.ports.get i → p.state = .ramping → p.duty < p.target →
      (p.target ≤ p.duty + 250 →
        exec (.rampStep i) s = .next (s.withPort i
          { p with state := .on, duty := p.target, stepTimer := 0, onRun := 0, driven := true }))
      ∧ (p.duty + 250 < p.target →
        exec (.rampStep i) s = .next (s.withPort i
          { p with duty := p.duty + 250, stepTimer := 100, driven := true })))
    ∧ ((s.switches.ports.get i).state ≠ .ramping → exec (.rampStep i) s = .next s))
  ∧ (∀ (i : Fin 4) (s : State), Settled s → s.switches.switching = true →
    (∀ p : Port, p = s.switches.ports.get i → p.state = .tripWait →
      exec (.tripWaitEnd i) s = .next (s.withPort i
        (if p.target = 0 then { p with state := .barred, duty := 0, stepTimer := 0, tripWait := 0, onRun := 0 }
        else { p with state := .ramping, duty := 0, stepTimer := 100, tripWait := 0 })))
    ∧ ((s.switches.ports.get i).state ≠ .tripWait → exec (.tripWaitEnd i) s = .next s))
  ∧ (∀ (i : Fin 4) (s : State), Settled s → s.switches.switching = true →
    ((s.switches.ports.get i).state = .on →
      exec (.onRunComplete i) s = .next (s.withPort i { s.switches.ports.get i with retry := 0, onRun := 10000 }))
    ∧ ((s.switches.ports.get i).state ≠ .on → exec (.onRunComplete i) s = .next s))

/-! ## Digests -/

/-- A token's check digest completes and does not match: on the keypad path the entry leaves the queue with BAD_CHECK
and the penalty count rises, a count of 5 starting a wait of 1 minute and each later one a wait twice the last, at
most 64 minutes; on the relay path the penalty stands, and the last relay result is BAD_CHECK with TOKEN_DONE raised
(R51, R66, R63, R64). In RUN the next entry is taken into service in the same event: its check digest is requested, unless
it is a keypad code and a wait is running, the one just started too, when it is answered PENALTY_WAIT with the seconds left
and the one after it is looked at (R48, R50). -/
def Obligations.BadChecksAreRefused : Prop :=
  (∀ (r : DigestRequest) (rest : List DigestRequest) (e : IntakeEntry) (s : State),
    Settled s → s.supply.power.awake = true → s.digests = r :: rest → r.purpose = .tokenCheck →
      s.tokens.service = .awaitDigest → s.tokens.intake = [e] →
      BitVec.ofNat 22 (Config.keyedDigest r.key r.fields) ≠ tokenCheck e.token →
      (∀ req : Request, e.source = .keypad req →
        ∃ t, exec .tokenCheckDigestDone s = .next t
          ∧ t.digests = rest ∧ t.tokens = { s.tokens with intake := [], service := .idle }
          ∧ t.domain.penalty.count = min (s.domain.penalty.count + 1) 65535
          ∧ (s.domain.penalty.count < 4 →
              t.domain.penalty.waitLength = s.domain.penalty.waitLength
              ∧ t.domain.penalty.waitRemaining = s.domain.penalty.waitRemaining)
          ∧ (s.domain.penalty.count = 4 →
              t.domain.penalty.waitLength = 1 ∧ t.domain.penalty.waitRemaining = 60)
          ∧ (4 < s.domain.penalty.count →
              t.domain.penalty.waitLength = min (2 * s.domain.penalty.waitLength) 64
              ∧ t.domain.penalty.waitRemaining = 60 * min (2 * s.domain.penalty.waitLength) 64)
          ∧ (req.id ∉ s.link.cancelled → Replied ⟨req.id, req.tag, req.kind,
              20 :: (natBytes 1 (tokenKind e.token) ++ natBytes 2 (tokenSerial e.token)), false⟩ t.link)
          ∧ t = { s with
              digests := rest
              tokens := t.tokens
              domain := { s.domain with penalty := t.domain.penalty }
              link := t.link })
      ∧ (e.source = .relay →
        ∃ t, exec .tokenCheckDigestDone s = .next t
          ∧ t.link.notices = s.link.notices ||| 0x0004#16 ∧ t.link.replies = s.link.replies
          ∧ t = { s with
              digests := rest
              tokens := { s.tokens with
                intake := [], service := .idle
                lastRelay := some ⟨tokenKind e.token, tokenSerial e.token, .badCheck⟩ }
              link := t.link }))
  ∧ (∀ (r : DigestRequest) (rest : List DigestRequest) (e next : IntakeEntry) (more : List IntakeEntry)
    (penalty : Penalty) (s : State),
    Settled s → s.supply.power = .run → s.digests = r :: rest → r.purpose = .tokenCheck →
      s.tokens.service = .awaitDigest → s.tokens.intake = e :: next :: more →
      BitVec.ofNat 22 (Config.keyedDigest r.key r.fields) ≠ tokenCheck e.token → tokenSerial next.token ≠ 0 →
      penalty = (match e.source with
        | .keypad _ => s.domain.penalty.advance
        | .relay => s.domain.penalty) →
      (next.source = .relay ∨ penalty.waitRemaining = 0 →
        ∃ t, exec .tokenCheckDigestDone s = .next t
          ∧ t.tokens.intake = next :: more ∧ t.tokens.service = .awaitDigest
          ∧ t.digests = rest ++ [⟨.tokenCheck, s.provisioning.settings.kitKey,
              [s.provisioning.settings.kitNumber, tokenKind next.token, tokenSerial next.token,
                tokenDayField next.token, tokenValue next.token]⟩]
          ∧ t = { s with
              digests := t.digests
              tokens := { t.tokens with window := s.tokens.window }
              domain := { s.domain with penalty := penalty }
              link := t.link })
      ∧ (∀ req : Request, next.source = .keypad req → 0 < penalty.waitRemaining → more = [] →
          req.id ∉ s.link.cancelled →
        ∃ t, exec .tokenCheckDigestDone s = .next t
          ∧ t.tokens.intake = [] ∧ t.tokens.service = .idle
          ∧ Replied ⟨req.id, req.tag, req.kind,
              19 :: (natBytes 1 (tokenKind next.token) ++ natBytes 2 (tokenSerial next.token)
                ++ natBytes 2 penalty.waitRemaining), false⟩ t.link
          ∧ t = { s with
              digests := rest
              tokens := { t.tokens with window := s.tokens.window }
              domain := { s.domain with penalty := penalty }
              link := t.link }))

/-- A genuine token, its check digest complete. Of a defined kind and a new serial, its evaluation passed, it is submitted
as a TOKEN entry: the account is pinned, the unit is IN_FLIGHT, the entry is at the tail of the write queue, and the
account, the window and the clock are as they were; an idle journal begins its write at once, or, with the sector full, the
erase that makes room for it (R51 to R53, R60, R21, R135, R139). Of an undefined kind it is UNKNOWN_KIND, with a serial
marked or equal to H DUPLICATE, below H − 31 SERIAL_TOO_OLD, and with a new one what its evaluation refuses: the entry
leaves the queue with that result, as a reply of the result, kind and serial on the keypad path, and as the last relay
result with TOKEN_DONE raised on the relay path; a DUPLICATE has its own receipt's envelope requested, and the penalty, the
window, the account and the clock stand (R49, R52, R53, R63, R64, R65). -/
def Obligations.GenuineTokensAreServed : Prop :=
  (∀ (r : DigestRequest) (rest : List DigestRequest) (e : IntakeEntry) (more : List IntakeEntry) (k : TokenKind)
    (entry : TokenEntry) (s : State),
    Settled s → s.digests = r :: rest → r.purpose = .tokenCheck → s.tokens.service = .awaitDigest →
      s.tokens.intake = e :: more → BitVec.ofNat 22 (Config.keyedDigest r.key r.fields) = tokenCheck e.token →
      tokenKindOf (tokenKind e.token) = some k → s.tokens.window.verdict (tokenSerial e.token) = .new →
      evaluate s.provisioning.settings s.domain.clock s.journal.failed s.account.acct k e.token = .ok entry →
      (s.journal.op ≠ .none ∨ s.journal.flushWait = true →
        exec .tokenCheckDigestDone s = .next { s with
          digests := rest
          account := { s.account with pinned := true }
          tokens := { s.tokens with service := .inFlight }
          journal := { s.journal with queue := s.journal.queue ++ [.token entry] } })
      ∧ (s.journal.op = .none → s.journal.flushWait = false →
        exec .tokenCheckDigestDone s = .next { s with
          digests := rest
          account := { s.account with pinned := true }
          tokens := { s.tokens with service := .inFlight }
          journal := { s.journal with
            queue := [.token entry]
            op := if 60 ≤ s.journal.nextSlot then .erase (nextGood s.journal.bad s.journal.sector)
              else .write (sealEntry s.journal.nextSequence (.token entry.body) entry.time entry.snapshot) } }))
  ∧ (∀ (r : DigestRequest) (rest : List DigestRequest) (e : IntakeEntry) (result : TokenResult) (s : State),
    Settled s → s.supply.power.awake = true → s.digests = r :: rest → r.purpose = .tokenCheck →
      s.tokens.service = .awaitDigest → s.tokens.intake = [e] →
      BitVec.ofNat 22 (Config.keyedDigest r.key r.fields) = tokenCheck e.token →
      ((tokenKindOf (tokenKind e.token) = none ∧ result = .unknownKind)
        ∨ (∃ k, tokenKindOf (tokenKind e.token) = some k
          ∧ ((s.tokens.window.verdict (tokenSerial e.token) = .duplicate ∧ result = .duplicate)
            ∨ (s.tokens.window.verdict (tokenSerial e.token) = .tooOld ∧ result = .serialTooOld)
            ∨ (s.tokens.window.verdict (tokenSerial e.token) = .new
              ∧ evaluate s.provisioning.settings s.domain.clock s.journal.failed s.account.acct k e.token
                  = .error result)))) →
      ∃ t, exec .tokenCheckDigestDone s = .next t
        ∧ t.digests = rest ++ (if tokenKindOf (tokenKind e.token) ≠ none
              ∧ s.tokens.window.verdict (tokenSerial e.token) = .duplicate then
            [⟨.ownReceipt (tokenSerial e.token) s.domain.clock.day, s.provisioning.settings.districtKey,
              [s.provisioning.settings.kitNumber, tokenSerial e.token, s.domain.clock.day]⟩]
          else [])
        ∧ (∀ req : Request, e.source = .keypad req →
            t = { s with
              digests := t.digests, tokens := { s.tokens with intake := [], service := .idle }, link := t.link }
            ∧ t.link.notices = s.link.notices
            ∧ (req.id ∉ s.link.cancelled → Replied ⟨req.id, req.tag, req.kind,
                result.code :: (natBytes 1 (tokenKind e.token) ++ natBytes 2 (tokenSerial e.token)), false⟩ t.link))
        ∧ (e.source = .relay →
            t = { s with
              digests := t.digests
              tokens := { s.tokens with
                intake := [], service := .idle
                lastRelay := some ⟨tokenKind e.token, tokenSerial e.token, result⟩ }
              link := t.link }
            ∧ t.link.notices = s.link.notices ||| 0x0004#16 ∧ t.link.replies = s.link.replies))

/-- What a token's evaluation refuses, in order. The resolved issue day is the one day congruent to its field modulo 1024
in a window of 1024 days about the clock's (R55). A day outside 0..65,535, or on a RUNNING clock older than the accept age,
is EXPIRED (R56); then a value out of the range of its kind is BAD_FORMAT (R58, Table 3-2); then, on the working copy with
the anchor's catch-up, a token that is not applicable is NOT_APPLICABLE (R58, Table 3-4), a credit that takes the balance
above 9,999,999 cu, debt repaid first, is WOULD_OVERFLOW (R59), and with a FAILED journal the token is NOT_DURABLE (R60).
A token that passes all five submits its kind, serial and value with the resolved issue day, the anchor, and the working
copy with the token's effect as its snapshot (R57, R60). -/
def Obligations.EvaluationOrder : Prop :=
  (∀ (f : Settings) (c : DayClock) (failed : Bool) (a w : Account) (k : TokenKind) (n : BitVec 66) (issue low high : Int)
    (o : AnchorOutcome),
    issue = resolveIssueDay c (tokenDayField n) →
    (c.condition = .running → low = c.day - 1015 ∧ high = c.day + 8) →
    (c.condition = .lost → low = c.day - 511 ∧ high = c.day + 512) →
    o = anchorFor (tariffOf f a.activeTariff) ⟨c.day, c.minute⟩ k issue.toNat (tokenValue n) →
    w = (match o with
      | .move target m crossing => (catchUp f m crossing target a).acct
      | .none => a
      | .confirm => a
      | .hold _ => a) →
    (issue - tokenDayField n) % 1024 = 0 ∧ low ≤ issue ∧ issue ≤ high
      ∧ (∀ d : Int, (d - tokenDayField n) % 1024 = 0 → low ≤ d → d ≤ high → d = issue)
      ∧ ((issue < 0 ∨ 65535 < issue ∨ (c.condition = .running ∧ issue < c.day - f.acceptAge)) →
          evaluate f c failed a k n = .error .expired)
      ∧ (0 ≤ issue → issue ≤ 65535 → (c.condition = .lost ∨ c.day - f.acceptAge ≤ issue) →
          (valueValid k (tokenValue n) = false → evaluate f c failed a k n = .error .badFormat)
          ∧ (valueValid k (tokenValue n) = true →
            (applicable f k (tokenValue n) w = false → evaluate f c failed a k n = .error .notApplicable)
            ∧ (applicable f k (tokenValue n) w = true →
              ((∃ credit, creditOf f k (tokenValue n) w = some credit
                  ∧ 9999999 < w.balance + (credit - min credit w.debt)) →
                evaluate f c failed a k n = .error .wouldOverflow)
              ∧ ((∀ credit, creditOf f k (tokenValue n) w = some credit →
                  w.balance + (credit - min credit w.debt) ≤ 9999999) →
                (failed = true → evaluate f c failed a k n = .error .notDurable)
                ∧ (failed = false → ∃ t, evaluate f c failed a k n = .ok t
                    ∧ t.body.kind = tokenKind n ∧ t.body.serial = tokenSerial n ∧ t.body.value = tokenValue n
                    ∧ (t.body.issueDay : Int) = issue ∧ t.body.outcome = o
                    ∧ t.snapshot = applyToken f k (tokenValue n) w
                    ∧ (∀ target m crossing, o = .move target m crossing → t.time = target)
                    ∧ ((∀ target m crossing, o ≠ .move target m crossing) → t.time = ⟨c.day, c.minute⟩)))))))
  ∧ (∀ v : Nat,
    (valueValid .addCredit v = true ↔ 1 ≤ v % 4096) ∧ (valueValid .forgiveDebt v = true ↔ 1 ≤ v % 4096)
      ∧ (valueValid .addDays v = true ↔ 1 ≤ v) ∧ (valueValid .setTariff v = true ↔ 1 ≤ v)
      ∧ (valueValid .payOff v = true ↔ v = 0) ∧ (valueValid .relock v = true ↔ v = 0)
      ∧ (valueValid .setTime v = true ↔ v ≤ 1439) ∧ (valueValid .grantGrace v = true ↔ 1 ≤ v ∧ v ≤ 7))
  ∧ (∀ (f : Settings) (w : Account) (v : Nat),
    (applicable f .addCredit v w = true ↔ w.state ≠ .paidOff)
      ∧ (applicable f .addDays v w = true ↔ w.state ≠ .paidOff ∧ (tariffOf f w.activeTariff).standing ≠ 0)
      ∧ creditOf f .addCredit v w = some (v % 4096 * 10 ^ (v / 4096))
      ∧ creditOf f .addDays v w = some (v * (tariffOf f w.activeTariff).standing)
      ∧ (∀ k : TokenKind, k ≠ .addCredit → k ≠ .addDays → creditOf f k v w = none))

/-- The replay window. Of a serial it says new above H, duplicate at H and at a mark, new from H − 31 on where it is not
marked, and too old below H − 31 (R53). After a serial is marked: it tells the serial and every serial it told before as not new, tells
no serial as a duplicate that it did not before but the one marked. Above the highest serial, the old highest becomes a
mark and the marks more than 31 below the new one go; below it, the serial becomes a mark (R53, R54). -/
def Obligations.SerialsAreJudgedAndMarked : Prop :=
  (∀ (w : Window) (s : Nat),
    (w.high < s → w.verdict s = .new)
      ∧ (s = w.high ∨ (s ≤ w.high ∧ s ∈ w.marks) → w.verdict s = .duplicate)
      ∧ (s < w.high → s ∉ w.marks → w.high - 31 ≤ s → w.verdict s = .new)
      ∧ (s < w.high → s ∉ w.marks → s < w.high - 31 → w.verdict s = .tooOld))
  ∧ (∀ (w : Window) (s : Nat), 0 < s → w.verdict s = .new →
    (w.high = 0 → w.marks = []) → (∀ m ∈ w.marks, m < w.high ∧ w.high ≤ m + 31 ∧ 0 < m) →
    (w.mark s).verdict s ≠ .new
      ∧ (∀ q, 0 < q → w.verdict q ≠ .new → (w.mark s).verdict q ≠ .new)
      ∧ (∀ q, 0 < q → q ≠ s → (w.mark s).verdict q = .duplicate → w.verdict q = .duplicate)
      ∧ (∀ m ∈ (w.mark s).marks, m < (w.mark s).high ∧ (w.mark s).high ≤ m + 31 ∧ 0 < m)
      ∧ (w.mark s).high = max w.high s
      ∧ (w.high < s → ∀ m, m ∈ (w.mark s).marks ↔ (m ∈ w.marks ∨ (m = w.high ∧ w.high ≠ 0)) ∧ s ≤ m + 31)
      ∧ (s < w.high → ∀ m, m ∈ (w.mark s).marks ↔ m ∈ w.marks ∨ m = s))

/-- Two kinds of envelope complete. An own receipt's: the receipt joins the list with its kit, serial, created day and
envelope and a hand count of 0, unless one of its kit and serial is held; with 32 held the oldest of the lowest created
day goes first (R65, R158, R153). A renewed one: it is placed in its record, and with no item left the CARRY is answered
and the store is free, or the next item's check is requested (R156, R155). -/
def Obligations.EnvelopesComplete : Prop :=
  (∀ (r : DigestRequest) (rest : List DigestRequest) (serial created : Nat) (s : State),
    Settled s → s.digests = r :: rest → r.purpose = .ownReceipt serial created →
      (s.relay.receipts.any (fun x => x.kit = s.provisioning.settings.kitNumber ∧ x.serial = serial) = true →
        exec .receiptEnvelopeDone s = .next { s with digests := rest })
      ∧ (s.relay.receipts.any (fun x => x.kit = s.provisioning.settings.kitNumber ∧ x.serial = serial) = false →
          s.relay.receipts.length < 32 →
        exec .receiptEnvelopeDone s = .next { s with
          digests := rest
          relay := { s.relay with receipts := s.relay.receipts ++
            [⟨s.provisioning.settings.kitNumber, serial, created,
              BitVec.ofNat 32 (Config.keyedDigest r.key r.fields), 0⟩] } })
      ∧ (∀ before old after, s.relay.receipts = before ++ old :: after →
          s.relay.receipts.any (fun x => x.kit = s.provisioning.settings.kitNumber ∧ x.serial = serial) = false →
          s.relay.receipts.length = 32 → (∀ x ∈ before, old.created < x.created) →
          (∀ x ∈ after, old.created ≤ x.created) →
        exec .receiptEnvelopeDone s = .next { s with
          digests := rest
          relay := { s.relay with receipts := before ++ after ++
            [⟨s.provisioning.settings.kitNumber, serial, created,
              BitVec.ofNat 32 (Config.keyedDigest r.key r.fields), 0⟩] } }))
  ∧ (∀ (x : Receipt) (list : List Receipt),
    ((∃ y ∈ list, y.kit = x.kit ∧ y.serial = x.serial) → addReceipt x list = list)
    ∧ ((∀ y ∈ list, ¬(y.kit = x.kit ∧ y.serial = x.serial)) →
      (list.length < 32 → addReceipt x list = list ++ [x])
      ∧ (∀ before old after, list = before ++ old :: after → list.length = 32 →
          (∀ y ∈ before, old.created < y.created) → (∀ y ∈ after, old.created ≤ y.created) →
          addReceipt x list = before ++ after ++ [x])))
  ∧ (∀ (r : DigestRequest) (rest : List DigestRequest) (c : CarryService) (dest serial : Nat)
    (renewed : List RelayRecord) (s : State),
    Settled s → s.supply.power.awake = true → s.digests = r :: rest → r.purpose = .renewal →
      s.relay.service = some c → c.renewing = some (dest, serial) →
      renewed = s.relay.records.map (fun x =>
        if x.destination = dest ∧ tokenSerial x.token = serial then
          { x with envelope := BitVec.ofNat 32 (Config.keyedDigest r.key r.fields) }
        else x) →
      (c.items = [] → s.relay.waiting = [] → c.request.id ∉ s.link.cancelled →
        ∃ t, exec .envelopeRenewalDone s = .next t
          ∧ Replied ⟨c.request.id, c.request.tag, c.request.kind,
              0 :: (c.results.map ItemResult.code ++ natBytes 1 s.relay.records.length
                ++ natBytes 1 s.relay.receipts.length), false⟩ t.link
          ∧ t.link.notices = s.link.notices
          ∧ t = { s with
              digests := rest
              relay := { s.relay with service := none, records := renewed }
              link := t.link })
      ∧ (∀ next more, c.items = next :: more →
        exec .envelopeRenewalDone s = .next { s with
          digests := rest ++ [⟨.itemCheck, s.provisioning.settings.districtKey, next.envelopeFields⟩]
          relay := { s.relay with service := some { c with renewing := none }, records := renewed } }))

/-- The envelope check of a CARRY's item completes, in STARTING and in RUN. A bad envelope gives BAD_ENVELOPE and no effect;
a good token item past its expiry day EXPIRED; one for the own kit is INTAKE_FULL with four entries held, and otherwise
joins the intake queue as a relay entry, QUEUED: it waits there while the part is not in RUN or an entry is in service, and
with the unit IDLE in RUN it is taken into service at once, its check digest requested, or refused BAD_FORMAT with serial
0, as the last relay result with TOKEN_DONE raised (R155, R47, R48, R50, R64, Table 9-4). A good token item for another kit
has the result and the effect of Table 9-4 from the hop limit on, and a receipt item is RECEIPT_IGNORED for the own kit,
and for another removes the matching record and is added, RECEIPT_MATCHED or RECEIPT_STORED (Table 9-5). With no item left
the CARRY is answered with the results and the two counts and the store is free; with items left the next one's check is
requested, whatever the settled item was; and a record stored with its expiry day shortened has its envelope renewed first
(R155, R156). Where the settled item is a token for an idle intake in RUN, the order of the token's digest request and the
next item's is an operand of the command, a choice of the model (log entry 8). At a CARRY's end the oldest waiting request is taken (R154). -/
def Obligations.ItemsAreSettled : Prop :=
  (∀ (order : DigestOrder) (r : DigestRequest) (rest : List DigestRequest) (c : CarryService) (item : RelayItem) (s : State),
    Settled s → s.supply.power.awake = true → s.digests = r :: rest → r.purpose = .itemCheck →
      s.relay.service = some c → c.items = [item] → s.relay.waiting = [] → c.request.id ∉ s.link.cancelled →
      (BitVec.ofNat 32 (Config.keyedDigest r.key r.fields) ≠ item.envelope →
        ∃ t, exec (.itemEnvelopeCheckDone order) s = .next t
          ∧ Replied ⟨c.request.id, c.request.tag, c.request.kind,
              0 :: ((c.results ++ [ItemResult.badEnvelope]).map ItemResult.code ++ natBytes 1 s.relay.records.length
                ++ natBytes 1 s.relay.receipts.length), false⟩ t.link
          ∧ t.link.notices = s.link.notices
          ∧ t = { s with digests := rest, relay := { s.relay with service := none }, link := t.link })
      ∧ (∀ dest tok issue expiry hop env, item = .token dest tok issue expiry hop env →
          BitVec.ofNat 32 (Config.keyedDigest r.key r.fields) = env →
          (expiry < s.domain.clock.day ∨ dest = s.provisioning.settings.kitNumber ∧ 4 ≤ s.tokens.intake.length →
            ∃ t, exec (.itemEnvelopeCheckDone order) s = .next t
              ∧ Replied ⟨c.request.id, c.request.tag, c.request.kind,
                  0 :: (c.results.map ItemResult.code ++ [if expiry < s.domain.clock.day then 4 else 2]
                    ++ natBytes 1 s.relay.records.length ++ natBytes 1 s.relay.receipts.length), false⟩ t.link
              ∧ t.link.notices = s.link.notices
              ∧ t = { s with digests := rest, relay := { s.relay with service := none }, link := t.link })
          ∧ (s.domain.clock.day ≤ expiry → dest = s.provisioning.settings.kitNumber → s.tokens.intake.length < 4 →
            ∃ t, exec (.itemEnvelopeCheckDone order) s = .next t
              ∧ Replied ⟨c.request.id, c.request.tag, c.request.kind,
                  0 :: ((c.results ++ [ItemResult.queued]).map ItemResult.code ++ natBytes 1 s.relay.records.length
                    ++ natBytes 1 s.relay.receipts.length), false⟩ t.link
              ∧ t = { s with
                  digests := t.digests, tokens := t.tokens, relay := { s.relay with service := none }, link := t.link }
              ∧ (s.supply.power ≠ .run ∨ s.tokens.service ≠ .idle →
                  t.digests = rest ∧ t.link.notices = s.link.notices
                  ∧ t.tokens = { s.tokens with intake := s.tokens.intake ++ [⟨.relay, tok⟩] })
              ∧ (s.supply.power = .run → s.tokens.service = .idle → tokenSerial tok ≠ 0 →
                  t.link.notices = s.link.notices
                  ∧ t.tokens = { s.tokens with intake := [⟨.relay, tok⟩], service := .awaitDigest }
                  ∧ t.digests = rest ++ [⟨.tokenCheck, s.provisioning.settings.kitKey,
                      [s.provisioning.settings.kitNumber, tokenKind tok, tokenSerial tok, tokenDayField tok,
                        tokenValue tok]⟩])
              ∧ (s.supply.power = .run → s.tokens.service = .idle → tokenSerial tok = 0 →
                  t.digests = rest ∧ t.link.notices = s.link.notices ||| 0x0004#16
                  ∧ t.tokens = { s.tokens with
                      intake := [], lastRelay := some ⟨tokenKind tok, 0, .badFormat⟩ }))))
  ∧ (∀ (order : DigestOrder) (r : DigestRequest) (rest : List DigestRequest) (c : CarryService) (kit serial created : Nat)
    (env : BitVec 32) (s : State),
    Settled s → s.supply.power.awake = true → s.digests = r :: rest → r.purpose = .itemCheck →
      s.relay.service = some c → c.items = [.receipt kit serial created env] → s.relay.waiting = [] →
      c.request.id ∉ s.link.cancelled → BitVec.ofNat 32 (Config.keyedDigest r.key r.fields) = env →
      ∃ t, exec (.itemEnvelopeCheckDone order) s = .next t
        ∧ (kit = s.provisioning.settings.kitNumber →
            t.relay.records = s.relay.records ∧ t.relay.receipts = s.relay.receipts)
        ∧ (kit ≠ s.provisioning.settings.kitNumber →
            t.relay.records =
              s.relay.records.filter (fun x => ¬(x.destination = kit ∧ tokenSerial x.token = serial))
            ∧ t.relay.receipts = addReceipt ⟨kit, serial, created, env, 0⟩ s.relay.receipts)
        ∧ Replied ⟨c.request.id, c.request.tag, c.request.kind,
            0 :: (c.results.map ItemResult.code
              ++ [if kit = s.provisioning.settings.kitNumber then 10
                else if ∃ x ∈ s.relay.records, x.destination = kit ∧ tokenSerial x.token = serial then 11 else 12]
              ++ natBytes 1 t.relay.records.length ++ natBytes 1 t.relay.receipts.length), false⟩ t.link
        ∧ t.link.notices = s.link.notices ∧ t.relay.service = none
        ∧ t = { s with digests := rest, relay := t.relay, link := t.link })
  ∧ (∀ (order : DigestOrder) (r : DigestRequest) (rest : List DigestRequest) (c : CarryService) (item next : RelayItem)
    (more : List RelayItem) (s : State),
    Settled s → s.supply.power.awake = true → s.digests = r :: rest → r.purpose = .itemCheck →
      s.relay.service = some c → c.items = item :: next :: more →
      BitVec.ofNat 32 (Config.keyedDigest r.key r.fields) ≠ item.envelope →
      exec (.itemEnvelopeCheckDone order) s = .next { s with
        digests := rest ++ [⟨.itemCheck, s.provisioning.settings.districtKey, next.envelopeFields⟩]
        relay := { s.relay with
          service := some { c with items := next :: more, results := c.results ++ [.badEnvelope] } } })
  ∧ (∀ (order : DigestOrder) (r : DigestRequest) (rest : List DigestRequest) (c : CarryService) (dest issue expiry hop : Nat)
    (tok : BitVec 66) (env : BitVec 32) (more : List RelayItem) (result : ItemResult) (records : List RelayRecord)
    (s : State),
    Settled s → s.supply.power.awake = true → s.digests = r :: rest → r.purpose = .itemCheck →
      s.relay.service = some c → c.items = .token dest tok issue expiry hop env :: more →
      BitVec.ofNat 32 (Config.keyedDigest r.key r.fields) = env → dest ≠ s.provisioning.settings.kitNumber →
      s.domain.clock.day ≤ expiry →
      evaluateRecord s.domain.clock.day s.relay dest tok issue expiry hop env = (result, records) →
      (result ≠ .stored ∨ expiry ≤ s.domain.clock.day + 60 →
        (more = [] → s.relay.waiting = [] → c.request.id ∉ s.link.cancelled →
          ∃ t, exec (.itemEnvelopeCheckDone order) s = .next t
            ∧ Replied ⟨c.request.id, c.request.tag, c.request.kind,
                0 :: ((c.results ++ [result]).map ItemResult.code ++ natBytes 1 records.length
                  ++ natBytes 1 s.relay.receipts.length), false⟩ t.link
            ∧ t.link.notices = s.link.notices
            ∧ t = { s with
                digests := rest, relay := { s.relay with service := none, records := records }, link := t.link })
        ∧ (∀ next after, more = next :: after →
          exec (.itemEnvelopeCheckDone order) s = .next { s with
            digests := rest ++ [⟨.itemCheck, s.provisioning.settings.districtKey, next.envelopeFields⟩]
            relay := { s.relay with
              records := records
              service := some { c with items := more, results := c.results ++ [result] } } }))
      ∧ (result = .stored → s.domain.clock.day + 60 < expiry →
          exec (.itemEnvelopeCheckDone order) s = .next { s with
            digests := rest ++ [⟨.renewal, s.provisioning.settings.districtKey,
              [dest, tok.toNat, issue, s.domain.clock.day + 60]⟩]
            relay := { s.relay with
              records := records
              service := some ⟨c.request, more, c.results ++ [.stored], some (dest, tokenSerial tok)⟩ } }))
  ∧ (∀ (order : DigestOrder) (r : DigestRequest) (rest : List DigestRequest) (c : CarryService) (item next : RelayItem)
    (more : List RelayItem) (check : DigestRequest) (s : State),
    Settled s → s.supply.power.awake = true → s.digests = r :: rest → r.purpose = .itemCheck →
      s.relay.service = some c → c.items = item :: next :: more →
      BitVec.ofNat 32 (Config.keyedDigest r.key r.fields) = item.envelope →
      check = ⟨.itemCheck, s.provisioning.settings.districtKey, next.envelopeFields⟩ →
      (∀ dest tok issue expiry hop env, item = .token dest tok issue expiry hop env →
        (expiry < s.domain.clock.day →
          exec (.itemEnvelopeCheckDone order) s = .next { s with
            digests := rest ++ [check]
            relay := { s.relay with
              service := some { c with items := next :: more, results := c.results ++ [.expired] } } })
        ∧ (s.domain.clock.day ≤ expiry → dest = s.provisioning.settings.kitNumber →
          (4 ≤ s.tokens.intake.length →
            exec (.itemEnvelopeCheckDone order) s = .next { s with
              digests := rest ++ [check]
              relay := { s.relay with
                service := some { c with items := next :: more, results := c.results ++ [.intakeFull] } } })
          ∧ (s.tokens.intake.length < 4 → s.supply.power ≠ .run ∨ s.tokens.service ≠ .idle →
            exec (.itemEnvelopeCheckDone order) s = .next { s with
              digests := rest ++ [check]
              tokens := { s.tokens with intake := s.tokens.intake ++ [⟨.relay, tok⟩] }
              relay := { s.relay with
                service := some { c with items := next :: more, results := c.results ++ [.queued] } } })
          ∧ (∀ tokenCheck : DigestRequest, s.supply.power = .run → s.tokens.service = .idle → tokenSerial tok ≠ 0 →
              tokenCheck = ⟨.tokenCheck, s.provisioning.settings.kitKey,
                [s.provisioning.settings.kitNumber, tokenKind tok, tokenSerial tok, tokenDayField tok, tokenValue tok]⟩ →
            exec (.itemEnvelopeCheckDone order) s = .next { s with
              digests := rest ++ (match order with
                | .tokenFirst => [tokenCheck, check]
                | .storeFirst => [check, tokenCheck])
              tokens := { s.tokens with intake := [⟨.relay, tok⟩], service := .awaitDigest }
              relay := { s.relay with
                service := some { c with items := next :: more, results := c.results ++ [.queued] } } })))
      ∧ (∀ kit serial created env, item = .receipt kit serial created env →
        (kit = s.provisioning.settings.kitNumber →
          exec (.itemEnvelopeCheckDone order) s = .next { s with
            digests := rest ++ [check]
            relay := { s.relay with
              service := some { c with items := next :: more, results := c.results ++ [.receiptIgnored] } } })
        ∧ (kit ≠ s.provisioning.settings.kitNumber →
          exec (.itemEnvelopeCheckDone order) s = .next { s with
            digests := rest ++ [check]
            relay := { s.relay with
              records := s.relay.records.filter (fun x => ¬(x.destination = kit ∧ tokenSerial x.token = serial))
              receipts := addReceipt ⟨kit, serial, created, env, 0⟩ s.relay.receipts
              service := some { c with
                items := next :: more
                results := c.results ++
                  [if ∃ x ∈ s.relay.records, x.destination = kit ∧ tokenSerial x.token = serial then .receiptMatched
                    else .receiptStored] } } })))
  ∧ (∀ (order : DigestOrder) (r : DigestRequest) (rest : List DigestRequest) (c : CarryService) (item : RelayItem)
    (waits : Request) (behind : List Request) (s : State),
    Settled s → s.supply.power.awake = true → s.domain.clock.timeSet = true → s.digests = r :: rest →
      r.purpose = .itemCheck → s.relay.service = some c → c.items = [item] →
      BitVec.ofNat 32 (Config.keyedDigest r.key r.fields) ≠ item.envelope → c.request.id ∉ s.link.cancelled →
      s.relay.waiting = waits :: behind →
      ∃ t, exec (.itemEnvelopeCheckDone order) s = .next t
        ∧ Replied ⟨c.request.id, c.request.tag, c.request.kind,
            0 :: ((c.results ++ [ItemResult.badEnvelope]).map ItemResult.code ++ natBytes 1 s.relay.records.length
              ++ natBytes 1 s.relay.receipts.length), false⟩ t.link
        ∧ t.link.notices = s.link.notices
        ∧ (∀ first others, waits.kind = RequestKind.carry.code → readBundle waits.body = some (first :: others) →
            t = { s with
              digests := rest ++ [⟨.itemCheck, s.provisioning.settings.districtKey, first.envelopeFields⟩]
              relay := { s.relay with service := some ⟨waits, first :: others, [], none⟩, waiting := behind }
              link := t.link })
        ∧ (waits.kind = RequestKind.carry.code → readBundle waits.body = none → behind = [] →
            waits.id ∉ s.link.cancelled →
            Replied ⟨waits.id, waits.tag, waits.kind, [1], false⟩ t.link
            ∧ t = { s with digests := rest, relay := { s.relay with service := none, waiting := [] }, link := t.link })
        ∧ (∀ k out, waits.kind = RequestKind.handoff.code → waits.body = [k] → behind = [] →
            waits.id ∉ s.link.cancelled → out = handoffList none (min k.toNat 8) s.relay.records →
            Replied ⟨waits.id, waits.tag, waits.kind,
              0 :: (natBytes 1 out.length ++ (out.map RelayRecord.copy).flatMap itemBytes
                ++ natBytes 1 t.relay.records.length), false⟩ t.link
            ∧ t = { s with
                digests := rest
                relay := { s.relay with service := none, waiting := [], records := afterHandoff out s.relay.records }
                link := t.link }))

/-- What a token item for another kit, with a good envelope and not expired, does to the store: a hop count of 7 is
HOP_LIMIT; a receipt held for it ALREADY_DELIVERED; a record held of its destination and serial MERGED, the lesser hop
count kept; with fewer than 48 records it is STORED at the tail with its expiry day at most 60 days ahead; with 48 it
replaces the victim if its hop count is no greater, and is STORE_FULL otherwise (R156, R157, Table 9-4). -/
def Obligations.RecordsAreEvaluated : Prop :=
  ∀ (day : Nat) (x : RelayStore) (dest : Nat) (tok : BitVec 66) (issue expiry hop : Nat) (env : BitVec 32),
    (hop = 7 → evaluateRecord day x dest tok issue expiry hop env = (.hopLimit, x.records))
    ∧ (hop ≠ 7 → (∃ r ∈ x.receipts, r.kit = dest ∧ r.serial = tokenSerial tok) →
        evaluateRecord day x dest tok issue expiry hop env = (.alreadyDelivered, x.records))
    ∧ (hop ≠ 7 → (∀ r ∈ x.receipts, ¬(r.kit = dest ∧ r.serial = tokenSerial tok)) →
        ((∃ r ∈ x.records, r.destination = dest ∧ tokenSerial r.token = tokenSerial tok) →
          evaluateRecord day x dest tok issue expiry hop env =
            (.merged, x.records.map (fun r =>
              if r.destination = dest ∧ tokenSerial r.token = tokenSerial tok then { r with hop := min r.hop hop }
              else r)))
        ∧ ((∀ r ∈ x.records, ¬(r.destination = dest ∧ tokenSerial r.token = tokenSerial tok)) →
          (x.records.length < 48 →
            evaluateRecord day x dest tok issue expiry hop env =
              (.stored, x.records ++ [⟨dest, tok, issue, min expiry (day + 60), hop, env, 0⟩]))
          ∧ (∀ before v after, x.records = before ++ v :: after → 48 ≤ x.records.length →
              (∀ r ∈ before ++ after, ¬(r.destination = v.destination ∧ tokenSerial r.token = tokenSerial v.token)) →
              (∀ r ∈ before, r.hop < v.hop ∨ (r.hop = v.hop ∧ r.offers < v.offers)) →
              (∀ r ∈ after, r.hop < v.hop ∨ (r.hop = v.hop ∧ r.offers ≤ v.offers)) →
              evaluateRecord day x dest tok issue expiry hop env =
                (if hop ≤ v.hop then
                  (.stored, before ++ after ++ [⟨dest, tok, issue, min expiry (day + 60), hop, env, 0⟩])
                else (.storeFull, x.records)))))

/-! ## The journal and the record -/

/-- A write ends with its verify passed. The slot holds the entry's 93 bytes as Table 12-10 lays them out, with its last 3
left erased, and every other slot what it held; the sequence and the slot move on by one (R138, R182). A TALLY's leaves
the queue, and the account is untouched. A sector-head checkpoint's ends what it was for: in ordinary work the oldest
queued entry is written next, to slot 1 (R139, R135); in a replay that moved on, replay reports its completion with what it
found (R146); after a start given up the core goes off (R129). A sector-head checkpoint whose verify fails damages its slot
and adds its sector to the bad-sector set, and with two good sectors left the next is erased (R140). A SUSPEND's completion in
HOLDOVER takes the core off, its entry in its slot and the clock domain as it was (R125, R138). A TALLY that carries a
RESTART has the reply OK queued, whose last byte restarts the core, and the journal waits with what is left in its queue;
where a break has cancelled the request the core is restarted at the entry's completion, with no reply (R131, R135). In RUN
the HISTORY requests that were held are answered, in the order they came, from the flash with the completed entry in it,
and the journal goes on with what is left in its queue (R148, R138). The bytes are each field at its offset, with the
window's marks as bits, the bad-sector byte, and the anchor's target, intervals and flag in the kind body (R182). These
are the model's choices: that the blocks of a core that has gone off show start values (log entry 12), and the order of the
replies, the submitter told before the held requests are served (log entry 15). -/
def Obligations.WritesComplete : Prop :=
  (∀ (e : Entry) (s : State), Settled s → FlashWf s.flash → s.journal.op = .write e → s.journal.queue = [.tally false] →
    s.journal.held = [] →
    ∃ t, exec (.journalWriteEnd true) s = .next t
      ∧ (∀ k, flashRead t.flash k =
          (if k = s.journal.sector * 60 + s.journal.nextSlot then
            .entry e ((entryBytes e).map some ++ [none, none, none]) else flashRead s.flash k))
      ∧ t = { s with
          flash := t.flash
          journal := { s.journal with
            queue := [], op := .none
            nextSlot := s.journal.nextSlot + 1, nextSequence := s.journal.nextSequence + 1 } })
  ∧ (∀ (e : Entry) (s : State), Settled s → FlashWf s.flash → s.journal.op = .head e → s.journal.nextSlot = 0 →
    s.journal.held = [] → s.journal.failed = false → s.journal.flushWait = false →
    (s.journal.work = .ordinary → s.supply.givenUp = false →
      ∃ t, exec (.journalWriteEnd true) s = .next t
        ∧ (∀ k, flashRead t.flash k =
            (if k = s.journal.sector * 60 then .entry e ((entryBytes e).map some ++ [none, none, none])
            else flashRead s.flash k))
        ∧ t = { s with
            flash := t.flash
            journal := { s.journal with
              op := t.journal.op, nextSlot := 1, nextSequence := s.journal.nextSequence + 1 } }
        ∧ (s.journal.queue = [] → t.journal.op = .none)
        ∧ (∀ restart rest, s.journal.queue = .tally restart :: rest → t.journal.op = .write
            (sealEntry (s.journal.nextSequence + 1) .tally s.domain.clock.time s.account.acct))
        ∧ (∀ rest, s.journal.queue = .suspend :: rest → t.journal.op = .write
            (sealEntry (s.journal.nextSequence + 1) .suspend s.domain.clock.time s.account.acct))
        ∧ (∀ entry rest, s.journal.queue = .token entry :: rest → t.journal.op = .write
            (sealEntry (s.journal.nextSequence + 1) (.token entry.body) entry.time entry.snapshot)))
    ∧ (∀ found, s.journal.work = .replay found → s.journal.queue = [] →
        (s.supply.givenUp = false →
          ∃ t, exec (.journalWriteEnd true) s = .next t
            ∧ t = { s with
                flash := t.flash
                supply := { s.supply with replay := .done (some found) }
                journal := { s.journal with
                  op := .none, work := .ordinary, nextSlot := 1, nextSequence := s.journal.nextSequence + 1 } })
        ∧ (s.supply.givenUp = true →
          ∃ t, exec (.journalWriteEnd true) s = .next t ∧ t.supply.power = .off
            ∧ flashRead t.flash (s.journal.sector * 60) =
                .entry e ((entryBytes e).map some ++ [none, none, none])))
    ∧ (s.supply.givenUp = false → 2 ≤ goodSectors (addBad s.journal.bad s.journal.sector) →
      ∃ t, exec (.journalWriteEnd false) s = .next t
        ∧ (∀ k, flashRead t.flash k = (if k = s.journal.sector * 60 then .damaged else flashRead s.flash k))
        ∧ t = { s with
            flash := t.flash
            journal := { s.journal with
              bad := addBad s.journal.bad s.journal.sector
              op := .erase (nextGood (addBad s.journal.bad s.journal.sector) s.journal.sector) } }))
  ∧ (∀ (e : Entry) (rest : List Queued) (s : State), Settled s → FlashWf s.flash → s.supply.power = .holdover →
    s.journal.op = .write e → s.journal.queue = .suspend :: rest →
    ∃ t, exec (.journalWriteEnd true) s = .next t
      ∧ (∀ k, flashRead t.flash k =
          (if k = s.journal.sector * 60 + s.journal.nextSlot then
            .entry e ((entryBytes e).map some ++ [none, none, none]) else flashRead s.flash k))
      ∧ t.domain = s.domain ∧ t.supply = Supply.start .off ∧ t.switches.switching = false
      ∧ t.account = AccountBlock.start ∧ t.tokens = TokenUnit.start ∧ t.journal = Journal.start
      ∧ t.link = Link.start false ∧ t.provisioning.otp = s.provisioning.coreReset.otp)
  ∧ (∀ (e : Entry) (req : Request) (rest : List Queued) (s : State), Settled s → FlashWf s.flash →
    s.supply.power = .run → s.journal.op = .write e → s.journal.queue = .tally true :: rest → s.journal.held = [] →
    s.supply.restartPending = true → s.supply.restartRequest = some req →
    ∃ t, exec (.journalWriteEnd true) s = .next t
      ∧ (∀ k, flashRead t.flash k =
          (if k = s.journal.sector * 60 + s.journal.nextSlot then
            .entry e ((entryBytes e).map some ++ [none, none, none]) else flashRead s.flash k))
      ∧ t.domain = s.domain
      ∧ (req.id ∉ s.link.cancelled →
          t = { s with
            flash := t.flash
            journal := { s.journal with
              queue := rest, op := .none, flushWait := true
              nextSlot := s.journal.nextSlot + 1, nextSequence := s.journal.nextSequence + 1 }
            link := t.link }
          ∧ t.link.notices = s.link.notices ∧ Replied ⟨req.id, req.tag, req.kind, [0], true⟩ t.link)
      ∧ (req.id ∈ s.link.cancelled →
          t.supply = Supply.start .starting ∧ t.link = Link.start true ∧ t.account = AccountBlock.start
          ∧ t.switches = Switches.start ∧ t.journal = Journal.start))
  ∧ (∀ (e : Entry) (rest : List Queued) (s : State), Settled s → FlashWf s.flash → s.supply.power = .run →
    s.journal.op = .write e → s.journal.queue = .tally false :: rest → s.journal.failed = false →
    s.journal.flushWait = false →
    ∃ t, exec (.journalWriteEnd true) s = .next t
      ∧ (∀ k, flashRead t.flash k =
          (if k = s.journal.sector * 60 + s.journal.nextSlot then
            .entry e ((entryBytes e).map some ++ [none, none, none]) else flashRead s.flash k))
      ∧ HeldAnswered s.journal.held (fun r => historyBody t.flash (fieldAt r.body 0 4)) s.link t.link
      ∧ (s.link.completed = [] → (∀ r ∈ s.journal.held, r.id ∉ s.link.cancelled) →
          t.link.replies ++ t.link.completed = s.link.replies ++ s.journal.held.map (fun r =>
            ⟨r.id, r.tag, r.kind, historyBody t.flash (fieldAt r.body 0 4), false⟩))
      ∧ t.link.notices = s.link.notices
      ∧ (rest = [] → t.journal.op = .none) ∧ (rest ≠ [] → t.journal.op ≠ .none)
      ∧ t = { s with
          flash := t.flash
          journal := { s.journal with
            held := [], queue := rest, op := t.journal.op
            nextSlot := s.journal.nextSlot + 1, nextSequence := s.journal.nextSequence + 1 }
          link := t.link })
  ∧ (∀ (sequence : Nat) (kind : EntryKind) (time : ClockTime) (snapshot : Account) (e : Entry) (b : List Byte),
    e = sealEntry sequence kind time snapshot → b = entryBytes e →
    b.length = 93 ∧ (Slot.entry e (b.map some ++ [none, none, none])).valid = some e
      ∧ fieldAt b 0 4 = sequence % 2 ^ 32
      ∧ fieldAt b 4 1 = (match kind with
          | .checkpoint _ _ => 1
          | .token _ => 2
          | .tally => 3
          | .suspend => 4)
      ∧ fieldAt b 5 2 = time.day % 2 ^ 16 ∧ fieldAt b 7 2 = time.minute % 2 ^ 16
      ∧ fieldAt b 9 1 = snapshot.state.code.toNat ∧ fieldAt b 10 4 = snapshot.balance % 2 ^ 32
      ∧ fieldAt b 14 2 = snapshot.debt % 2 ^ 16 ∧ fieldAt b 16 2 = snapshot.graceBudget % 2 ^ 16
      ∧ fieldAt b 18 1 = snapshot.graceArmed.toNat ∧ fieldAt b 19 1 = snapshot.rs % 2 ^ 8
      ∧ fieldAt b 20 4 = snapshot.re % 2 ^ 32 ∧ fieldAt b 24 4 = snapshot.allowance % 2 ^ 32
      ∧ fieldAt b 28 1 = snapshot.activeTariff % 2 ^ 8 ∧ fieldAt b 29 1 = snapshot.stagedTariff.getD 0 % 2 ^ 8
      ∧ fieldAt b 30 6 = snapshot.ct % 2 ^ 48 ∧ fieldAt b 36 6 = snapshot.ht % 2 ^ 48
      ∧ fieldAt b 42 6 = snapshot.ft % 2 ^ 48 ∧ fieldAt b 48 6 = snapshot.vt % 2 ^ 48
      ∧ (∀ i : Fin 4, fieldAt b (54 + 4 * i.val) 4 = snapshot.marks.get i % 2 ^ 32)
      ∧ fieldAt b 70 2 = snapshot.lastTally.day % 2 ^ 16 ∧ fieldAt b 72 2 = snapshot.lastTally.minute % 2 ^ 16
      ∧ fieldAt b 89 4 = (crc32 (b.take 89)).toNat
      ∧ (∀ (w : Window) (bad : BitVec 8), kind = .checkpoint w bad →
          fieldAt b 74 2 = w.high % 2 ^ 16
          ∧ ((∀ m ∈ w.marks, m < w.high) → ∀ k, 1 ≤ k → k ≤ 32 →
              ((fieldAt b 76 4).testBit (k - 1) = true ↔ ∃ m ∈ w.marks, m + k = w.high))
          ∧ fieldAt b 80 1 = bad.toNat ∧ fieldAt b 81 8 = 0)
      ∧ (∀ body : TokenBody, kind = .token body →
          fieldAt b 74 1 = body.kind % 2 ^ 8 ∧ fieldAt b 75 2 = body.serial % 2 ^ 16
          ∧ fieldAt b 77 2 = body.value % 2 ^ 16 ∧ fieldAt b 79 2 = body.issueDay % 2 ^ 16
          ∧ (body.outcome = .none → fieldAt b 81 1 = 0 ∧ fieldAt b 82 7 = 0)
          ∧ (body.outcome = .confirm → fieldAt b 81 1 = 1 ∧ fieldAt b 82 7 = 0)
          ∧ (∀ target n crossing, body.outcome = .move target n crossing →
              fieldAt b 81 1 = 2 ∧ fieldAt b 82 2 = target.day % 2 ^ 16 ∧ fieldAt b 84 2 = target.minute % 2 ^ 16
              ∧ fieldAt b 86 2 = n % 2 ^ 16 ∧ fieldAt b 88 1 = crossing.toNat)
          ∧ (∀ target, body.outcome = .hold target →
              fieldAt b 81 1 = 3 ∧ fieldAt b 82 2 = target.day % 2 ^ 16 ∧ fieldAt b 84 2 = target.minute % 2 ^ 16
              ∧ fieldAt b 86 3 = 0))
      ∧ (kind = .tally ∨ kind = .suspend → fieldAt b 74 15 = 0))

/-- A TOKEN entry's write ends with its verify passed, in RUN. The account takes the entry's snapshot and is no longer
pinned; the serial is marked in the window, the penalty is 0, and the entry leaves the intake (R61, R22, R54, R66). Then a
pending tally point later than the time of last tally that the snapshot has is performed with the counts the meter holds,
and any other is discarded (R22); the caps are those of the account after it (R24), and ACCOUNT_STATE, LOW_CREDIT and
TARIFF_APPLIED are raised where the commit or the tally calls for them (R25, R33). On the keypad path the reply is ACCEPTED
with the issue day and the account's state, balance and debt after the commit (R63); on the relay path the last relay
result is ACCEPTED and TOKEN_DONE is raised (R64). The own receipt's envelope is requested (R65). The clock makes the
anchor that the entry carries, and a MOVE that crosses a day and moves the clock has the Relay Store sweep (R85, R161). An
entry that completes in HOLDOVER commits in the same way, but no reply goes out, no envelope is requested and a pending
tally point is discarded, and the SUSPEND written next carries the token (R61, R22, R143). That a cause
raised there, TOKEN_DONE among them, joins the notice set, and no reply and no NOTICE frame joins the lists, which R174
leaves as they stand, is the model's choice (log entry 19). -/
def Obligations.TokensCommit : Prop :=
  (∀ (e : Entry) (entry : TokenEntry) (i : IntakeEntry) (last : Charged) (s : State),
    Settled s → s.supply.power = .run → s.journal.op = .write e → s.journal.queue = [.token entry] →
      s.journal.held = [] → s.tokens.service = .inFlight → s.tokens.intake = [i] →
      ((∃ point, s.account.pendingTally = some point ∧ After point entry.snapshot.lastTally
          ∧ last = tallyAndBoundary s.provisioning.settings s.meter.counts point entry.snapshot)
        ∨ ((∀ point, s.account.pendingTally = some point → ¬After point entry.snapshot.lastTally)
          ∧ last = ⟨entry.snapshot, false, false⟩)) →
      ∃ t, exec (.journalWriteEnd true) s = .next t
        ∧ (FlashWf s.flash → ∀ k, flashRead t.flash k =
            (if k = s.journal.sector * 60 + s.journal.nextSlot then
              .entry e ((entryBytes e).map some ++ [none, none, none]) else flashRead s.flash k))
        ∧ t.account = { s.account with acct := last.acct, pinned := false, pendingTally := none }
        ∧ t.tokens = { s.tokens with
            intake := [], service := .idle, window := s.tokens.window.mark entry.body.serial
            lastRelay := if i.source = .relay then some ⟨tokenKind i.token, tokenSerial i.token, .accepted⟩
              else s.tokens.lastRelay }
        ∧ t.domain = { s.domain with
            penalty := ⟨0, 0, 0⟩
            clock := s.domain.clock.makeAnchor (decide (entry.body.kind = 6)) entry.body.outcome }
        ∧ (∀ req : Request, i.source = .keypad req → req.id ∉ s.link.cancelled → Replied ⟨req.id, req.tag, req.kind,
            16 :: (natBytes 1 (tokenKind i.token) ++ natBytes 2 (tokenSerial i.token)
              ++ natBytes 2 entry.body.issueDay ++ [entry.snapshot.state.code] ++ natBytes 4 entry.snapshot.balance
              ++ natBytes 2 entry.snapshot.debt), false⟩ t.link)
        ∧ (i.source = .relay → t.link.replies = s.link.replies)
        ∧ t.link.notices = s.link.notices
            ||| (if s.account.acct.state ≠ entry.snapshot.state ∨ entry.snapshot.state ≠ last.acct.state then 0x0001#16
              else 0)
            ||| (if entry.lowCredit = true ∨ last.lowCredit = true then 0x0002#16 else 0)
            ||| (if i.source = .relay then 0x0004#16 else 0)
            ||| (if entry.tariffApplied = true ∨ last.tariffApplied = true then 0x0008#16 else 0)
        ∧ t.digests = s.digests ++ [⟨.ownReceipt entry.body.serial t.domain.clock.day,
            s.provisioning.settings.districtKey,
            [s.provisioning.settings.kitNumber, entry.body.serial, t.domain.clock.day]⟩]
        ∧ (s.switches.switching = true → ∀ n, (t.switches.ports.get n).accountCap =
            (accountCaps (tariffOf s.provisioning.settings last.acct.activeTariff) last.acct).get n)
        ∧ t.meter = s.meter ∧ t.supply = s.supply ∧ t.provisioning = s.provisioning
        ∧ (s.domain.clock.anchorDayChange entry.body.outcome = none → t.relay = s.relay)
        ∧ (∀ day, s.domain.clock.anchorDayChange entry.body.outcome = some day → t.relay = { s.relay with
            records := s.relay.records.filter (fun r => day ≤ r.expiryDay)
            receipts := s.relay.receipts.filter (fun r => day ≤ r.created + 14) }))
  ∧ (∀ (e : Entry) (entry : TokenEntry) (i : IntakeEntry) (s : State),
    Settled s → FlashWf s.flash → s.supply.power = .holdover → s.link.receiving = false →
      s.switches.switching = false → s.journal.op = .write e → s.journal.queue = [.token entry, .suspend] →
      s.journal.failed = false → s.journal.flushWait = false → s.tokens.service = .inFlight → s.tokens.intake = [i] →
      ∃ t, exec (.journalWriteEnd true) s = .next t
        ∧ (∀ k, flashRead t.flash k =
            (if k = s.journal.sector * 60 + s.journal.nextSlot then
              .entry e ((entryBytes e).map some ++ [none, none, none]) else flashRead s.flash k))
        ∧ t.tokens.intake = [] ∧ t.tokens.service = .idle
        ∧ t.tokens.window = s.tokens.window.mark entry.body.serial
        ∧ t.link = { s.link with notices := t.link.notices }
        ∧ t = { s with
            flash := t.flash
            account := { s.account with acct := entry.snapshot, pinned := false, pendingTally := none }
            tokens := t.tokens
            domain := { s.domain with
              penalty := ⟨0, 0, 0⟩
              clock := s.domain.clock.makeAnchor (decide (entry.body.kind = 6)) entry.body.outcome }
            journal := { s.journal with
              queue := [.suspend]
              nextSlot := s.journal.nextSlot + 1, nextSequence := s.journal.nextSequence + 1
              op := if 60 ≤ s.journal.nextSlot + 1 then .erase (nextGood s.journal.bad s.journal.sector)
                else .write (sealEntry (s.journal.nextSequence + 1) .suspend
                  (s.domain.clock.makeAnchor (decide (entry.body.kind = 6)) entry.body.outcome).time entry.snapshot) }
            relay := t.relay
            link := t.link })

/-- A sector's erase ends with its verify passed: every slot of the sector reads blank and every other as before, the
sector is current, and the write of its checkpoint begins at slot 0. In ordinary work the checkpoint carries the account
and the window as they stand, and the clock's time (R139, R134); in a replay that moves on it carries what replay found,
the account and the time of the newest complete entry and the window rebuilt (R146). In RUN the HISTORY requests that were
held are answered from the flash as the erase has left it; outside RUN they stay held (R148). -/
def Obligations.ErasesHeadTheSector : Prop :=
  ∀ (sector : Nat) (left : List SlotLeft) (head : Entry) (s : State), Settled s → s.journal.op = .erase sector →
    s.supply.givenUp = false → s.journal.failed = false →
    ((s.journal.work = .ordinary
        ∧ head = sealEntry s.journal.nextSequence (.checkpoint s.tokens.window s.journal.bad) s.domain.clock.time
            s.account.acct)
      ∨ ∃ found, s.journal.work = .replay found
        ∧ head = sealEntry s.journal.nextSequence (.checkpoint found.window s.journal.bad) found.time found.acct) →
    ∃ t, exec (.sectorEraseEnd true left) s = .next t
      ∧ (∀ k, flashRead t.flash k = if k / 60 = sector then .blank else flashRead s.flash k)
      ∧ (s.supply.power = .run →
          HeldAnswered s.journal.held (fun r => historyBody t.flash (fieldAt r.body 0 4)) s.link t.link)
      ∧ (s.supply.power ≠ .run ∨ s.journal.held = [] → t.link = s.link)
      ∧ t.link.notices = s.link.notices
      ∧ t = { s with
          flash := t.flash
          journal := { s.journal with
            sector := sector, nextSlot := 0, op := .head head
            held := if s.supply.power = .run then [] else s.journal.held }
          link := t.link }

/-- A write whose verify fails damages its slot and adds the current sector to the bad-sector set; with two good
sectors left the next good sector is erased, and the entry stays in the queue (R140). An erase that fails adds its sector
to the set; with two good sectors left the next good one after it is erased in its place, the current sector unchanged
(R141). A failure that leaves fewer makes the journal FAILED: its queue is dropped, each submitter told, no operation is in
progress, and JOURNAL_FAILED is raised (R140 to R142). A dropped TALLY of the account does nothing. A dropped TOKEN is
NOT_DURABLE, as a reply on the keypad path and as the last relay result with TOKEN_DONE on the relay path; the pin is
released, and a pending tally point later than the time of last tally is performed at once, with its notices; window,
penalty, clock and digests stand (R62, R63, R64). A dropped TALLY that carries a RESTART answers it NOT_DURABLE, with
restart pending no and the part still in RUN (R131). In HOLDOVER the core goes off (R125). In a replay that moves on,
replay reports its completion with what it found (R146). What a failed erase leaves in its sector is an operand of the
command, and what a core that has gone off shows is the values of a start: both are the model's choices (log entries 11,
12), and so is it that in a replay's move-on JOURNAL_FAILED joins the notice set at the failure, before the start event
raises it (log entry 31). -/
def Obligations.FlashFailures : Prop :=
  (∀ (e : Entry) (s : State), Settled s → FlashWf s.flash → s.journal.op = .write e → s.journal.held = [] →
    2 ≤ goodSectors (addBad s.journal.bad s.journal.sector) →
    ∃ t, exec (.journalWriteEnd false) s = .next t
      ∧ (∀ k, flashRead t.flash k =
          (if k = s.journal.sector * 60 + s.journal.nextSlot then .damaged else flashRead s.flash k))
      ∧ t = { s with
          flash := t.flash
          journal := { s.journal with
            bad := addBad s.journal.bad s.journal.sector
            op := .erase (nextGood (addBad s.journal.bad s.journal.sector) s.journal.sector) } })
  ∧ (∀ (sector : Nat) (left : List SlotLeft) (s : State), Settled s → s.journal.op = .erase sector →
    s.journal.held = [] → s.journal.work ≠ .ringErase → s.supply.givenUp = false →
    2 ≤ goodSectors (addBad s.journal.bad sector) →
    ∃ t, exec (.sectorEraseEnd false left) s = .next t
      ∧ (FlashWf s.flash → ErasedAsLeft sector left s.flash t.flash)
      ∧ t = { s with
          flash := t.flash
          journal := { s.journal with
            bad := addBad s.journal.bad sector
            op := .erase (nextGood (addBad s.journal.bad sector) sector) } })
  ∧ (∀ (c : Instr) (bad : BitVec 8) (failed : Journal) (s : State), Settled s → s.journal.held = [] →
    s.supply.givenUp = false →
    ((∃ sector left, c = .sectorEraseEnd false left ∧ s.journal.op = .erase sector ∧ bad = addBad s.journal.bad sector)
      ∨ ∃ e, c = .journalWriteEnd false ∧ (s.journal.op = .write e ∨ s.journal.op = .head e)
        ∧ bad = addBad s.journal.bad s.journal.sector) →
    goodSectors bad < 2 →
    failed = { s.journal with failed := true, queue := [], op := .none, flushWait := false, bad := bad } →
    (s.journal.work = .ordinary → s.supply.power = .run →
      (s.journal.queue = [.tally false] →
        ∃ t, exec c s = .next t ∧ t.link.notices = s.link.notices ||| 0x0400#16 ∧ t.link.replies = s.link.replies
          ∧ t = { s with flash := t.flash, journal := failed, link := t.link })
      ∧ (∀ (entry : TokenEntry) (i : IntakeEntry) (last : Charged), s.journal.queue = [.token entry] →
          s.tokens.service = .inFlight → s.tokens.intake = [i] →
          ((∃ point, s.account.pendingTally = some point ∧ After point s.account.acct.lastTally
              ∧ last = tallyAndBoundary s.provisioning.settings s.meter.counts point s.account.acct)
            ∨ ((∀ point, s.account.pendingTally = some point → ¬After point s.account.acct.lastTally)
              ∧ last = ⟨s.account.acct, false, false⟩)) →
        ∃ t, exec c s = .next t
          ∧ (∀ req : Request, i.source = .keypad req → req.id ∉ s.link.cancelled → Replied ⟨req.id, req.tag, req.kind,
              5 :: (natBytes 1 (tokenKind i.token) ++ natBytes 2 (tokenSerial i.token)), false⟩ t.link)
          ∧ (i.source = .relay → t.link.replies = s.link.replies)
          ∧ t.link.notices = s.link.notices ||| 0x0400#16
              ||| (if s.account.acct.state ≠ last.acct.state then 0x0001#16 else 0)
              ||| (if last.lowCredit = true then 0x0002#16 else 0)
              ||| (if i.source = .relay then 0x0004#16 else 0)
              ||| (if last.tariffApplied = true then 0x0008#16 else 0)
          ∧ t = { s with
              flash := t.flash
              journal := failed
              account := { s.account with acct := last.acct, pinned := false, pendingTally := none }
              tokens := { s.tokens with
                intake := [], service := .idle
                lastRelay := if i.source = .relay then some ⟨tokenKind i.token, tokenSerial i.token, .notDurable⟩
                  else s.tokens.lastRelay }
              switches := t.switches
              link := t.link })
      ∧ (∀ req : Request, s.journal.queue = [.tally true] → s.supply.restartPending = true →
          s.supply.restartRequest = some req →
        ∃ t, exec c s = .next t ∧ t.link.notices = s.link.notices ||| 0x0400#16
          ∧ (req.id ∉ s.link.cancelled → Replied ⟨req.id, req.tag, req.kind, [5], false⟩ t.link)
          ∧ t = { s with
              flash := t.flash
              journal := failed
              supply := { s.supply with restartPending := false, restartRequest := none }
              link := t.link }))
    ∧ (s.journal.work = .ordinary → s.supply.power = .holdover →
        ∃ t, exec c s = .next t ∧ t.supply = Supply.start .off ∧ t.switches.switching = false
          ∧ t.account = AccountBlock.start ∧ t.journal = Journal.start ∧ t.link = Link.start false
          ∧ t.domain = s.domain)
    ∧ (∀ found, s.journal.work = .replay found → s.supply.power = .starting → s.journal.queue = [] →
        ∃ t, exec c s = .next t ∧ t.link.notices = s.link.notices ||| 0x0400#16 ∧ t.link.replies = s.link.replies
          ∧ t = { s with
              flash := t.flash
              journal := { failed with work := .ordinary }
              supply := { s.supply with replay := .done (some found) }
              link := t.link }))

/-- Replay. With no valid CHECKPOINT in the slot 0 of a sector it finds nothing and the journal is FAILED (R144). The one of
the highest sequence serves. From it the walk goes on over the slots after it for as long as each holds a valid TOKEN,
TALLY or SUSPEND of the next sequence: the account and the time found are those of the last of them, the window is the
checkpoint's with the serial of every TOKEN among them marked, the journal goes on at the slot where the walk stopped with
the sequence after the last, and the bad-sector set is the checkpoint's (R145, R146). Where the walk ran to the end or
stopped at a blank slot, and no valid slot anywhere carries a higher sequence, replay has reported its completion;
otherwise the next good sector is being erased, to be headed with what was found (R146). No slot changes. -/
def Obligations.ReplayFinds : Prop :=
  (∀ s : State,
    (∀ sector < 8, ∀ e, (flashRead s.flash (sector * 60)).valid = some e → ∀ w bad, e.kind ≠ .checkpoint w bad) →
    runReplay s = { s with
      journal := { s.journal with failed := true }, supply := { s.supply with replay := .done none } })
  ∧ (∀ (s : State) (sector : Nat) (head newest : Entry) (window : Window) (bad : BitVec 8) (walked : List Entry)
    (found : Found) (stop : Slot) (dirty : Prop),
    sector < 8 → (flashRead s.flash (sector * 60)).valid = some head → head.kind = .checkpoint window bad →
    (∀ other < 8, other ≠ sector → ∀ e, (flashRead s.flash (other * 60)).valid = some e →
      (∃ w b, e.kind = .checkpoint w b) → e.sequence < head.sequence) →
    walked.length ≤ 59 →
    (∀ i e, walked[i]? = some e → (flashRead s.flash (sector * 60 + 1 + i)).valid = some e
      ∧ e.sequence = head.sequence + 1 + i ∧ ∀ w b, e.kind ≠ .checkpoint w b) →
    stop = flashRead s.flash (sector * 60 + 1 + walked.length) →
    (walked.length < 59 → ∀ e, stop.valid = some e → e.sequence = head.sequence + 1 + walked.length →
      ∃ w b, e.kind = .checkpoint w b) →
    newest = walked.getLast?.getD head →
    found = ⟨newest.snapshot, newest.time, walked.foldl (fun w e => match e.kind with
      | .token body => w.mark body.serial
      | .tally => w
      | .suspend => w
      | .checkpoint _ _ => w) window⟩ →
    (dirty ↔ walked.length < 59 ∧ stop ≠ .blank
      ∨ ∃ x ∈ s.flash, ∃ e, x.2.valid = some e ∧ newest.sequence < e.sequence) →
    2 ≤ goodSectors bad →
    (¬dirty → runReplay s = { s with
      journal := { s.journal with
        queue := [], sector := sector, nextSlot := 1 + walked.length
        nextSequence := head.sequence + walked.length + 1, bad := bad }
      supply := { s.supply with replay := .done (some found) } })
    ∧ (dirty → runReplay s = { s with
      journal := { s.journal with
        queue := [], sector := sector, nextSlot := 1 + walked.length
        nextSequence := head.sequence + walked.length + 1, bad := bad
        op := .erase (nextGood bad sector), work := .replay found }
      supply := { s.supply with replay := .working } }))

/-- Provisioning from its programming to its completion. Programming ends: with its verify passed the record is VALID
with the fields and their check, and the ring is prepared from sector 0; with its verify failed the record is DAMAGED and
the PROVISION is answered BAD_PROVISION, RECORD_DAMAGED (R177). The ring is erased sector after sector, and after sector 7
the lowest good sector is headed with the first CHECKPOINT, sequence 1, with the account of R27, the initial time and an
empty window (R147). When that checkpoint completes, or when fewer than two sectors are good and the journal is FAILED,
provisioning completes in one event: the clock is set, RUNNING, its source and qualification left; the account is that of
R27, field by field, with its caps given and ACCOUNT_STATE raised; the penalty is 0; counts and residues are 0; and the
PROVISION is
answered OK with the kit number and the journal state (R177, R27, R88, R67, R103, R24). These are the model's choices: that
PROGRAMMING_END changes nothing where nothing is being programmed (log entry 4); the layout under the record check (log
entry 22); that the ring is prepared to its end in HOLDOVER too (log entry 23); that the journal is FAILED, and
provisioning complete, at the first failed erase that leaves fewer than two good sectors, whatever sectors are left to
erase (log entry 24); and that what a failed erase leaves in its sector is an operand of the command (log entry 11). -/
def Obligations.ProvisioningRuns : Prop :=
  (∀ (f : Settings) (req : Request) (s : State), Settled s → s.supply.power = .run →
    (s.provisioning.phase = .programming f → s.provisioning.request = some req →
      exec (.programmingEnd true) s = .next { s with
        provisioning := ⟨.written f (recordCheck f), .valid, .ring, some req⟩
        journal := { Journal.start with op := .erase 0, work := .ringErase } }
      ∧ (req.id ∉ s.link.cancelled →
        ∃ t, exec (.programmingEnd false) s = .next t
          ∧ Replied ⟨req.id, req.tag, req.kind, [7, 1], false⟩ t.link ∧ t.link.notices = s.link.notices
          ∧ t = { s with provisioning := ⟨.spoiled, .damaged, .idle, none⟩, link := t.link }))
    ∧ (∀ verify, s.provisioning.phase = .idle → exec (.programmingEnd verify) s = .next s))
  ∧ (∀ (sector : Nat) (left : List SlotLeft) (s : State), Settled s → s.journal.op = .erase sector →
    s.journal.work = .ringErase → s.journal.held = [] → s.journal.failed = false → s.supply.givenUp = false →
    (sector < 7 → ∃ t, exec (.sectorEraseEnd true left) s = .next t
      ∧ t = { s with flash := t.flash, journal := { s.journal with op := .erase (sector + 1) } }
      ∧ (∀ k, flashRead t.flash k = if k / 60 = sector then .blank else flashRead s.flash k))
    ∧ (sector < 7 → 2 ≤ goodSectors (addBad s.journal.bad sector) →
      ∃ t, exec (.sectorEraseEnd false left) s = .next t
      ∧ t = { s with flash := t.flash, journal := { s.journal with
          op := .erase (sector + 1), bad := addBad s.journal.bad sector } }
      ∧ (FlashWf s.flash → ErasedAsLeft sector left s.flash t.flash))
    ∧ (sector = 7 → ∃ t, exec (.sectorEraseEnd true left) s = .next t
      ∧ t = { s with flash := t.flash, journal := { s.journal with
          sector := lowestGood s.journal.bad, nextSlot := 0, nextSequence := 1, work := .ringHead
          op := .head (sealEntry 1 (.checkpoint ⟨0, []⟩ s.journal.bad) s.provisioning.settings.initialTime
            (provisionedAccount s.provisioning.settings)) } }
      ∧ (∀ k, flashRead t.flash k = if k / 60 = 7 then .blank else flashRead s.flash k))
    ∧ (sector = 7 → 2 ≤ goodSectors (addBad s.journal.bad 7) → ∃ t, exec (.sectorEraseEnd false left) s = .next t
      ∧ t = { s with flash := t.flash, journal := { s.journal with
          sector := lowestGood (addBad s.journal.bad 7), nextSlot := 0, nextSequence := 1, work := .ringHead
          bad := addBad s.journal.bad 7
          op := .head (sealEntry 1 (.checkpoint ⟨0, []⟩ (addBad s.journal.bad 7)) s.provisioning.settings.initialTime
            (provisionedAccount s.provisioning.settings)) } }
      ∧ (FlashWf s.flash → ErasedAsLeft 7 left s.flash t.flash)))
  ∧ (∀ (c : Instr) (req : Request) (f : Settings) (s : State), Settled s → s.supply.power = .run →
    s.provisioning.condition = .valid → s.provisioning.settings = f → s.provisioning.request = some req →
    req.id ∉ s.link.cancelled → s.journal.held = [] → s.journal.queue = [] → s.supply.givenUp = false →
    s.tokens.intake = [] → s.relay.waiting = [] →
    ((c = .journalWriteEnd true ∧ s.journal.failed = false ∧ s.journal.work = .ringHead
        ∧ ∃ e, s.journal.op = .head e)
      ∨ (∃ sector left, c = .sectorEraseEnd false left ∧ s.journal.work = .ringErase
        ∧ s.journal.op = .erase sector ∧ goodSectors (addBad s.journal.bad sector) < 2)) →
    ∃ t, exec c s = .next t
      ∧ t.provisioning.phase = .idle ∧ t.provisioning.request = none ∧ t.provisioning.settings = f
      ∧ t.domain = { s.domain with
          penalty := ⟨0, 0, 0⟩
          clock := { s.domain.clock with
            day := f.initialTime.day, minute := f.initialTime.minute, second := 0, timeSet := true
            condition := .running, hold := 0, anchorAge := 0 } }
      ∧ t.account = ⟨provisionedAccount f, false, none, true⟩
      ∧ (s.switches.switching = true → ∀ i, (t.switches.ports.get i).accountCap =
          (accountCaps (tariffOf f t.account.acct.activeTariff) t.account.acct).get i)
      ∧ t.tokens.window = ⟨0, []⟩
      ∧ (∀ i, (t.meter.ports.get i).count = 0 ∧ (t.meter.ports.get i).residue = 0)
      ∧ t.journal.work = .ordinary ∧ t.journal.op = .none
      ∧ (FlashWf s.flash → ∀ e, s.journal.op = .head e → ∀ k, flashRead t.flash k =
          (if k = s.journal.sector * 60 + s.journal.nextSlot then
            .entry e ((entryBytes e).map some ++ [none, none, none]) else flashRead s.flash k))
      ∧ (FlashWf s.flash → ∀ sector left, c = .sectorEraseEnd false left → s.journal.op = .erase sector →
          ErasedAsLeft sector left s.flash t.flash)
      ∧ t.link.notices.getLsbD 0 = true
      ∧ (c = .journalWriteEnd true →
          t.journal.failed = false ∧ t.journal.nextSlot = s.journal.nextSlot + 1
            ∧ t.journal.nextSequence = s.journal.nextSequence + 1
            ∧ Replied ⟨req.id, req.tag, req.kind, 0 :: (natBytes 4 f.kitNumber ++ [0]), false⟩ t.link)
      ∧ (c ≠ .journalWriteEnd true →
          t.journal.failed = true ∧ t.link.notices.getLsbD 10 = true
            ∧ Replied ⟨req.id, req.tag, req.kind, 0 :: (natBytes 4 f.kitNumber ++ [3]), false⟩ t.link))
  ∧ (∀ (f : Settings) (a : Account), a = provisionedAccount f →
    a.state = (if 0 < f.initialCredit then .active else .locked)
      ∧ a.balance = f.initialCredit ∧ a.ct = f.initialCredit ∧ a.debt = 0 ∧ a.ht = 0 ∧ a.ft = 0 ∧ a.vt = 0
      ∧ a.graceBudget = 0 ∧ a.rs = 0 ∧ a.re = 0 ∧ a.stagedTariff = none ∧ (∀ i, a.marks.get i = 0)
      ∧ a.lastTally.day * 1440 + a.lastTally.minute
          = 15 * ((f.initialTime.day * 1440 + f.initialTime.minute) / 15)
      ∧ a.lastTally.minute < 1440
      ∧ (∀ tariff, f.tariffs[f.initialIndex]? = some tariff →
          a.activeTariff = tariff.number ∧ a.allowance = tariff.allowance
            ∧ a.graceArmed = decide (0 < tariff.graceDays)))

/-! ## Power -/

/-- The start event of a provisioned part with its clock set, which is a warm start: the account and the window are those
replay found, or with no entry found the account of R27, LOCKED at balance 0, and an empty window, caught up to the clock;
the meter's counts are the account's marks; the caps are given; the shed level is that of the last battery reading; a TALLY
is queued, but with the journal FAILED, when JOURNAL_FAILED is raised; and the part is in RUN with the meter sampling (R130,
R26, R27, R102, R38, R71, R24). The catch-up has every tally point of the gap in CALENDAR mode and none in SERVICE (R38). ACCOUNT_STATE,
LOW_CREDIT and TARIFF_APPLIED are raised where the catch-up calls for them, SHED_LEVEL at a level above 0, and BACKUP_WEAK
with a WEAK cell (R130, R25, R33, R122). The METER requests held are answered at the restore, before the catch-up: the marks
as the counts, everything else of the meter afresh; and the HISTORY requests held from the flash in RUN (R98, R148). The
first entry waiting in the intake is then taken into service (R48, R130). That the command changes nothing where replay has
not reported its completion or the part is not in STARTING is the model's choice (log entry 4), and so are the mark of a
start given up (log entry 37) and the moments in the start event at which the held requests read (log entry 15). -/
def Obligations.TheStartEvent : Prop :=
  (∀ (order : DigestOrder) (s : State), Settled s →
    (∀ (found : Option Found) (a : Account) (w : Window) (caught : Charged),
        s.supply.power = .starting → s.supply.givenUp = false →
        s.supply.replay = .done found → s.provisioning.condition = .valid → s.domain.clock.timeSet = true →
        (∀ x, found = some x → a = x.acct ∧ w = x.window) →
        (found = none → a = { provisionedAccount s.provisioning.settings with
            state := .locked, balance := 0, ct := 0 } ∧ w = ⟨0, []⟩) →
        caught = catchUp s.provisioning.settings
          (warmIntervals (tariffOf s.provisioning.settings a.activeTariff) a.lastTally
            s.domain.clock.time)
          (decide (a.lastTally.day < s.domain.clock.day)) s.domain.clock.time a →
      ∃ t, exec (.startEvent order) s = .next t
        ∧ t.supply.power = .run ∧ t.meter.sampling = true ∧ t.account = ⟨caught.acct, false, none, true⟩
        ∧ t.tokens.window = w
        ∧ t.meter.counts = a.marks
        ∧ t.supply.shedLevel = belowCount s.thresholds s.supply.battery
        ∧ (s.switches.switching = true → ∀ i, (t.switches.ports.get i).accountCap =
            (accountCaps (tariffOf s.provisioning.settings t.account.acct.activeTariff) t.account.acct).get i)
        ∧ (s.journal.failed = false → ∃ q ∈ t.journal.queue, q = .tally false ∨ q = .tally true)
        ∧ (s.journal.failed = true → t.journal.queue = s.journal.queue)
        ∧ t.domain = s.domain ∧ t.flash = s.flash
        ∧ t.link.notices.getLsbD 0 =
            (s.link.notices.getLsbD 0 || decide (caught.acct.state ≠ a.state))
        ∧ t.link.notices.getLsbD 1 = (s.link.notices.getLsbD 1 || caught.lowCredit)
        ∧ t.link.notices.getLsbD 3 = (s.link.notices.getLsbD 3 || caught.tariffApplied)
        ∧ t.link.notices.getLsbD 4 = s.link.notices.getLsbD 4
        ∧ t.link.notices.getLsbD 6 = (s.link.notices.getLsbD 6 || decide (0 < t.supply.shedLevel))
        ∧ t.link.notices.getLsbD 10 = (s.link.notices.getLsbD 10 || s.journal.failed)
        ∧ t.link.notices.getLsbD 12 = (s.link.notices.getLsbD 12 || decide (s.domain.backup = .weak))
        ∧ t.meter.held = [] ∧ t.journal.held = []
        ∧ HeldAnswered s.meter.held (fun _ => restoredMeterBody a s.meter.sampling) s.link t.link
        ∧ HeldAnswered s.journal.held (fun r => historyBody s.flash (fieldAt r.body 0 4)) s.link t.link
        ∧ (s.tokens.service ≠ .idle ∨ s.tokens.intake = [] →
            t.tokens = { s.tokens with window := w } ∧ t.digests = s.digests)
        ∧ (∀ e more, s.tokens.service = .idle → s.tokens.intake = e :: more → tokenSerial e.token ≠ 0 →
            e.source = .relay ∨ s.domain.penalty.waitRemaining = 0 →
            t.tokens = { s.tokens with window := w, service := .awaitDigest }
            ∧ t.digests = s.digests ++ [⟨.tokenCheck, s.provisioning.settings.kitKey,
                [s.provisioning.settings.kitNumber, tokenKind e.token, tokenSerial e.token, tokenDayField e.token,
                  tokenValue e.token]⟩]))
    ∧ (s.supply.power ≠ .starting ∨ s.supply.givenUp = true ∨ (∀ found, s.supply.replay ≠ .done found) →
        exec (.startEvent order) s = .next s))
  ∧ (∀ (t : Tariff) (last now : ClockTime),
    warmIntervals t last now = (if t.mode = .service then 0
      else (now.day * 1440 + now.minute) / 15 - (last.day * 1440 + last.minute) / 15))

/-- The start event with the clock not set, which is a cold start. On a provisioned part the clock is set from the newest
entry found, or from the record's initial time when replay found none, LOST, second 0, hold 0 and anchor age 0, its source
and qualification left, and CLOCK_LOST is raised (R90); the penalty holds its fresh values (R67); the account and the
window are those found, with no catch-up and no TALLY, or, when none was found, LOCKED at balance 0 as R27 gives, with an
empty window (R26, R27, R71). On a part without a valid record the clock is not set and the account is UNPROVISIONED with
every cap 0 (R90, R130). In each the meter's counts are the account's marks, BACKUP_WEAK and JOURNAL_FAILED are raised
where their conditions hold, and the part is in RUN with the meter sampling (R130, R102, R122), after the METER requests
held were answered at the restore and the HISTORY requests held from the flash (R98, R148). These are the model's choices:
that the source is left as it was, CRYSTAL too, where R90 and Table 4-4 say LOST on RC (log entry 26), that the penalty
takes its fresh values without a valid record too (log entry 27), and the moments at which the held requests read (log
entry 15). -/
def Obligations.ColdStarts : Prop :=
  ∀ (order : DigestOrder) (found : Option Found) (s : State), Settled s → s.supply.power = .starting →
    s.supply.givenUp = false → s.supply.replay = .done found → s.domain.clock.timeSet = false →
    ∃ t, exec (.startEvent order) s = .next t
      ∧ t.supply.power = .run ∧ t.meter.sampling = true ∧ t.account.loaded = true ∧ t.account.pinned = false
      ∧ t.account.pendingTally = none ∧ t.flash = s.flash ∧ t.provisioning = s.provisioning
      ∧ t.domain.penalty = ⟨5, 1, 60⟩ ∧ t.domain.backup = s.domain.backup ∧ t.domain.powered = s.domain.powered
      ∧ t.meter.counts = t.account.acct.marks
      ∧ t.supply.shedLevel = belowCount s.thresholds s.supply.battery
      ∧ (s.switches.switching = true → ∀ i, (t.switches.ports.get i).accountCap =
          (accountCaps (tariffOf s.provisioning.settings t.account.acct.activeTariff) t.account.acct).get i)
      ∧ t.journal.queue = s.journal.queue
      ∧ t.meter.held = [] ∧ t.journal.held = []
      ∧ HeldAnswered s.meter.held (fun _ => restoredMeterBody t.account.acct s.meter.sampling) s.link t.link
      ∧ HeldAnswered s.journal.held (fun r => historyBody s.flash (fieldAt r.body 0 4)) s.link t.link
      ∧ (s.domain.backup = .weak → t.link.notices.getLsbD 12 = true)
      ∧ (s.provisioning.condition = .valid →
          (∀ time : ClockTime, time = (found.map Found.time).getD s.provisioning.settings.initialTime →
            t.domain.clock = { s.domain.clock with
              day := time.day, minute := time.minute, second := 0, timeSet := true, condition := .lost
              hold := 0, anchorAge := 0 })
          ∧ t.link.notices.getLsbD 4 = true
          ∧ (s.journal.failed = true → t.link.notices.getLsbD 10 = true)
          ∧ (∀ x, found = some x → t.account.acct = x.acct ∧ t.tokens.window = x.window)
          ∧ (found = none → t.account.acct = { provisionedAccount s.provisioning.settings with
                state := .locked, balance := 0, ct := 0 } ∧ t.tokens.window = ⟨0, []⟩))
      ∧ (s.provisioning.condition ≠ .valid →
          t.domain.clock = s.domain.clock ∧ t.account.acct = Account.unprovisioned ∧ t.tokens.window = ⟨0, []⟩
          ∧ (s.switches.switching = true → ∀ i, (t.switches.ports.get i).accountCap = 0))

/-- A loss of supply puts the core off with everything in it lost, while the clock domain stays, the record too, but for a
programming that is cut off, which leaves it DAMAGED (R177), and the flash changes only in the slot or sector being worked
on: the slot being written, a sector head's among them, is damaged, or as it was when no byte had been programmed. Without
a flash operation the flash is untouched (R126, R138, R143). The values shown by a block without its core, what the cut
operation leaves of its sector, and that a programming cut off at any byte leaves the record damaged, are the model's
choices (log entries 11, 12, 43), and so is it that a core already off is left as it is (log entry 4). -/
def Obligations.SupplyIsLost : Prop :=
  ∀ (cut : FlashCut) (s : State), Settled s →
    (s.supply.power = .off → exec (.supplyLoss cut) s = .next s)
    ∧ (s.supply.power ≠ .off → FlashWf s.flash →
      ∃ t, exec (.supplyLoss cut) s = .next t
        ∧ t.supply.power = .off ∧ t.switches.switching = false ∧ (∀ i, (t.switches.ports.get i).duty = 0)
        ∧ t.journal = Journal.start ∧ t.account = AccountBlock.start ∧ t.tokens = TokenUnit.start
        ∧ t.relay = RelayStore.start ∧ t.digests = [] ∧ t.link = Link.start false ∧ t.domain = s.domain
        ∧ (s.journal.op = .none → t.flash = s.flash)
        ∧ (∀ e, s.journal.op = .write e ∨ s.journal.op = .head e → ∀ k, flashRead t.flash k =
            (if k = s.journal.sector * 60 + s.journal.nextSlot ∧ cut.programmed = true then .damaged
            else flashRead s.flash k))
        ∧ (∀ sector, s.journal.op = .erase sector → ∀ k, k / 60 ≠ sector → flashRead t.flash k = flashRead s.flash k)
        ∧ ((∀ f, s.provisioning.phase ≠ .programming f) → t.provisioning.otp = s.provisioning.otp)
        ∧ (∀ f, s.provisioning.phase = .programming f → t.provisioning.otp = .spoiled)
        ∧ t.provisioning.phase = .idle ∧ t.provisioning.request = none)

/-- The clock domain and the core are powered, and the domain loses its power. The domain powered after it had none: day,
minute and second 0, time set no, source RC, qualification 0, condition LOST, hold and anchor age 0, the penalty at count
5, a wait of 1 minute with 60 seconds remaining, the backup state GOOD (R72, R122). The domain loses its power: the
clock's record, the penalty state and the backup state are lost, and with them the core's supply (R72; that the core goes
with it is the model's choice, log entry 28, and so are the values shown without power, log entry 12). The core is powered
while it is off and its clock domain is powered: STARTING with filter count 0, restart pending no and shed level 0; the
notice set clear, ring, transmit list, intake and store empty, every port IDLE with caps 0; the record VALID exactly when
its check matches; the clock domain and the flash as they were (R128, R175, R119, R174, R164, R71). That a domain or a core
already powered is left as it is, and a core whose domain is not, is the model's choice (log entry 4). -/
def Obligations.TheDomainAndTheCorePowerUp : Prop :=
  (∀ s : State, Settled s →
    (s.domain.powered = true → exec .clockDomainPowerUp s = .next s)
    ∧ (s.domain.powered = false →
      ∃ t, exec .clockDomainPowerUp s = .next t
        ∧ t.domain.powered = true
        ∧ t.domain.clock = ⟨0, 0, 0, false, .rc, 0, .lost, 0, 0⟩
        ∧ t.domain.penalty = ⟨5, 1, 60⟩ ∧ t.domain.backup = .good
        ∧ t = { s with domain := t.domain }))
  ∧ (∀ (cut : FlashCut) (s : State), Settled s →
    (s.supply.power = .off → exec (.clockDomainPowerLoss cut) s = .next { s with domain := .off })
    ∧ (s.supply.power ≠ .off →
      ∃ t, exec (.clockDomainPowerLoss cut) s = .next t ∧ t.domain = .off ∧ t.supply.power = .off
        ∧ t.account = AccountBlock.start ∧ t.link = Link.start false))
  ∧ (∀ s : State, Settled s →
    (s.supply.power = .off → s.domain.powered = true →
      ∃ t, exec .corePowerUp s = .next t
        ∧ t.supply = ⟨0, 0, .starting, 0, false, none, false, .notAsked⟩
        ∧ t.link = ⟨true, [], 0, none, [], none, [], [], [], 0, 0, 0, 0⟩
        ∧ t.tokens.intake = [] ∧ t.tokens.service = .idle ∧ t.tokens.lastRelay = none
        ∧ t.relay = ⟨[], [], none, []⟩ ∧ t.digests = []
        ∧ (∀ i, t.switches.ports.get i = ⟨.idle, false, 0, 0, 0, 0, 0, 0, 0, 0, 0, false⟩)
        ∧ t.switches.switching = true ∧ t.meter.sampling = false ∧ t.account.loaded = false
        ∧ t.domain = s.domain ∧ t.flash = s.flash
        ∧ ((∃ f check, s.provisioning.otp = .written f check) → (∀ f, s.provisioning.phase ≠ .programming f) →
            (t.provisioning.condition = .valid ↔
              ∃ f, s.provisioning.otp = .written f (recordCheck f))))
    ∧ (s.supply.power ≠ .off ∨ s.domain.powered = false → exec .corePowerUp s = .next s))
end

