-- ==== Sys2Proof/Laws/Account.lean ====
section
/-! SUPPORT. The account's rules (AccountOk) are kept by every piece of the account's arithmetic. -/

namespace Sys2Proof.Machine

/-- A tariff whose fields bear on the account lie in their ranges (Table 2-1). -/
abbrev TariffOk (t : Tariff) : Prop := t.debtLimit ≤ 50000 ∧ t.graceDays ≤ 7

/-- A tariff looked up in a record whose ranges hold lies in its ranges. -/
theorem tariffOf_ok (f : Settings) (n : Nat) (h : SettingsOk f) : TariffOk (tariffOf f n) := by
  unfold tariffOf
  cases hf : f.tariffs.find? (fun t => t.number = n) with
  | none => decide
  | some t => exact h.2 t (List.mem_of_find?_eq_some hf)

/-- The initial tariff of a record whose ranges hold lies in its ranges. -/
theorem initialTariff_ok (f : Settings) (h : SettingsOk f) : TariffOk (initialTariff f) := by
  unfold initialTariff
  cases hf : f.tariffs[f.initialIndex]? with
  | none => decide
  | some t => exact h.2 t (List.mem_of_getElem? hf)

/-- A charge in ACTIVE keeps the account's rules (R10, R11). -/
theorem chargeActive_ok (t : Tariff) (c : Nat) (a : Account) (ht : TariffOk t) (h : AccountOk a)
    (hs : a.state = .active) : AccountOk (chargeActive t c a) := by
  obtain ⟨hl, hg⟩ := ht
  obtain ⟨law, both, -, -, hact, -, -, hgb, hb, hd, hgl, hrs, hre⟩ := h
  have hpos := hact hs
  have hgb := hgb (by simp [hs])
  have hd0 : a.debt = 0 := by omega
  unfold chargeActive
  split
  · simp only [AccountOk, hs]; simp; omega
  · unfold exhaust
    by_cases h1 : a.graceArmed && decide (0 < t.graceDays)
    · rw [if_pos h1]
      split
      · simp [AccountOk]; omega
      · simp [AccountOk]; omega
    · rw [if_neg h1]
      simp [AccountOk]; omega

/-- A charge in GRACE keeps the account's rules (R12). -/
theorem chargeGrace_ok (t : Tariff) (c m : Nat) (a : Account) (ht : TariffOk t) (h : AccountOk a)
    (hs : a.state = .grace) : AccountOk (chargeGrace t c m a) := by
  obtain ⟨hl, -⟩ := ht
  obtain ⟨law, both, -, -, -, hgr, -, -, hb, hd, hgl, hrs, hre⟩ := h
  have hb0 := hgr hs
  unfold chargeGrace
  simp only
  split
  · simp [AccountOk, hb0]; omega
  · simp [AccountOk, hs, hb0]; omega

/-- The stages before application keep the account's rules, and leave its state (R7 to R10). -/
theorem tallyStages_ok (t : Tariff) (counts : PerPort Nat) (a : Account) (h : AccountOk a) :
    AccountOk (tallyStages t counts a).2 ∧ (tallyStages t counts a).2.state = a.state := by
  obtain ⟨law, both, h1, h2, h3, h4, h5, hgb, hb, hd, hgl, hrs, hre⟩ := h
  refine ⟨⟨law, both, h1, h2, h3, h4, h5, hgb, hb, hd, hgl, ?_, ?_⟩, rfl⟩
  · exact Nat.mod_lt _ (by omega)
  · exact Nat.mod_lt _ (by omega)

/-- A tally keeps the account's rules (R6 to R13). -/
theorem tallyAccount_ok (t : Tariff) (counts : PerPort Nat) (p : ClockTime) (a : Account) (ht : TariffOk t)
    (h : AccountOk a) : AccountOk (tallyAccount t counts p a) := by
  have st := tallyStages_ok t counts a h
  unfold tallyAccount
  split
  · exact h
  · exact h
  · exact h
  · rename_i hs
    exact chargeActive_ok t _ _ ht st.1 (st.2.trans hs)
  · rename_i hs
    exact chargeGrace_ok t _ 15 _ ht st.1 (st.2.trans hs)

/-- The day boundary keeps the account's rules (R32 to R36). -/
theorem dayBoundary_ok (f : Settings) (a : Account) (h : AccountOk a) : AccountOk (dayBoundary f a) := by
  have act : AccountOk (activateTariff f a) := by
    unfold activateTariff
    split
    · exact h
    · simp only
      split
      · rename_i hc
        obtain ⟨law, both, -, -, -, hgr, -, -, hb, hd, hgl, hrs, hre⟩ := h
        have hb0 := hgr hc.1
        refine ⟨law, both, ?_, ?_, ?_, ?_, ?_, ?_, hb, hd, ?_, hrs, hre⟩ <;> simp [hb0]
      · exact h
  exact act

/-- The charge of a catch-up keeps the account's rules (R15). -/
theorem catchUpCharge_ok (t : Tariff) (n : Nat) (a : Account) (ht : TariffOk t) (h : AccountOk a) :
    AccountOk (catchUpCharge t n a) := by
  have h' : AccountOk { a with rs := (a.rs + n * t.standing) % 96 } := by
    obtain ⟨law, both, h1, h2, h3, h4, h5, hgb, hb, hd, hgl, hrs, hre⟩ := h
    exact ⟨law, both, h1, h2, h3, h4, h5, hgb, hb, hd, hgl, Nat.mod_lt _ (by omega), hre⟩
  unfold catchUpCharge
  simp only
  split
  · exact chargeActive_ok t _ _ ht h' (by assumption)
  · exact chargeGrace_ok t _ _ _ ht h' (by assumption)
  · exact h

/-- A day boundary due or not keeps the account's rules. -/
theorem withBoundary_ok (f : Settings) (due : Bool) (c : Charged) (h : AccountOk c.acct) :
    AccountOk (withBoundary f due c).acct := by
  unfold withBoundary
  split
  · exact dayBoundary_ok f c.acct h
  · exact h

/-- A catch-up keeps the account's rules (R15, R16). -/
theorem catchUp_ok (f : Settings) (n : Nat) (x : Bool) (u : ClockTime) (a : Account) (hf : SettingsOk f)
    (h : AccountOk a) : AccountOk (catchUp f n x u a).acct :=
  withBoundary_ok f x _ (catchUpCharge_ok _ n a (tariffOf_ok f _ hf) h)

/-- A tally with its day boundary keeps the account's rules (R14). -/
theorem tallyAndBoundary_ok (f : Settings) (counts : PerPort Nat) (p : ClockTime) (a : Account) (hf : SettingsOk f)
    (h : AccountOk a) : AccountOk (tallyAndBoundary f counts p a).acct :=
  withBoundary_ok f _ _ (tallyAccount_ok _ counts p a (tariffOf_ok f _ hf) h)

/-- A credit that does not overflow keeps the account's rules (R17, R2). -/
theorem creditAccount_ok (t : Tariff) (n : Nat) (a : Account) (h : AccountOk a) (hp : a.state ≠ .paidOff)
    (ho : overflows n a = false) : AccountOk (creditAccount t n a) := by
  obtain ⟨law, both, h1, h2, h3, h4, h5, hgb, hb, hd, hgl, hrs, hre⟩ := h
  have ho : a.balance + (n - min n a.debt) ≤ 9999999 := by
    unfold overflows at ho; simpa using ho
  have key : AccountOk (if 0 < a.balance + (n - min n a.debt) then
      { a with balance := a.balance + (n - min n a.debt), debt := a.debt - min n a.debt, ct := a.ct + n,
               state := .active, graceBudget := 0 }
    else { a with balance := a.balance + (n - min n a.debt), debt := a.debt - min n a.debt, ct := a.ct + n }) := by
    split
    · simp [AccountOk]; omega
    · rename_i hz
      have hz' : a.balance = 0 ∧ n - min n a.debt = 0 := by omega
      refine ⟨?_, ?_, fun e => ?_, fun e => ?_, fun e => ?_, fun e => ?_, fun e => ?_, hgb, ?_, ?_, hgl, hrs, hre⟩
      · simp only; omega
      · simp only; omega
      · have := h1 e; simp only; omega
      · simp only; omega
      · have := h3 e; omega
      · simp only; omega
      · exact absurd e hp
      · simp only; omega
      · simp only; omega
  unfold creditAccount
  simp only
  split
  · exact key
  · exact key

/-- FORGIVE_DEBT keeps the account's rules (R18). -/
theorem forgiveDebt_ok (n : Nat) (a : Account) (h : AccountOk a) : AccountOk (forgiveDebt n a) := by
  obtain ⟨law, both, h1, h2, h3, h4, h5, hgb, hb, hd, hgl, hrs, hre⟩ := h
  simp only [AccountOk, forgiveDebt]
  refine ⟨?_, ?_, fun e => ?_, h2, h3, h4, fun e => ?_, hgb, hb, ?_, hgl, hrs, hre⟩
  · clear h1 h2 h3 h4 h5 hgb; omega
  · clear h1 h2 h3 h4 h5 hgb; omega
  · exact ⟨(h1 e).1, by rw [(h1 e).2]; simp⟩
  · rw [h5 e]; simp
  · clear h1 h2 h3 h4 h5 hgb; omega

/-- PAYOFF keeps the account's rules (R18). -/
theorem payOff_ok (a : Account) (h : AccountOk a) : AccountOk (payOff a) := by
  obtain ⟨law, both, -, -, -, -, -, -, hb, hd, hgl, hrs, hre⟩ := h
  simp [payOff, AccountOk]; omega

/-- RELOCK keeps the account's rules (R19). -/
theorem relock_ok (t : Tariff) (a : Account) (h : AccountOk a) : AccountOk (relock t a) := by
  obtain ⟨law, both, -, -, -, -, -, -, hb, hd, hgl, hrs, hre⟩ := h
  simp [relock, AccountOk]; omega

/-- GRANT_GRACE of at most seven days keeps the account's rules (R20, R5). -/
theorem grantGrace_ok (d : Nat) (a : Account) (hd : d ≤ 7) (h : AccountOk a) : AccountOk (grantGrace d a) := by
  unfold grantGrace
  split
  · rename_i hs
    obtain ⟨law, both, -, h2, -, -, -, -, hb, hd, hgl, hrs, hre⟩ := h
    have := h2 hs
    simp [AccountOk]; omega
  · rename_i hs
    obtain ⟨law, both, -, -, -, h4, -, -, hb, hd, hgl, hrs, hre⟩ := h
    have := h4 hs
    simp [AccountOk, hs]; omega
  · exact h

/-- The effect of a token whose tests have passed keeps the account's rules (R17 to R20, R30, Table 3-4). -/
theorem applyToken_ok (f : Settings) (k : TokenKind) (v : Nat) (a : Account)
    (h : AccountOk a) (hv : valueValid k v = true) (ha : applicable f k v a = true)
    (ho : (creditOf f k v a).any (fun c => overflows c a) = false) : AccountOk (applyToken f k v a) := by
  have hcr : ∀ n, creditOf f k v a = some n → a.state ≠ .paidOff →
      AccountOk (creditAccount (tariffOf f a.activeTariff) n a) := fun n hn hp =>
    creditAccount_ok _ n a h hp (by rw [hn] at ho; simpa using ho)
  cases k
  · exact hcr _ rfl (by simpa [applicable] using ha)
  · exact hcr _ rfl (by simp [applicable] at ha; exact ha.1)
  · unfold applyToken stageTariff; simp only; split <;> exact h
  · exact payOff_ok a h
  · exact relock_ok _ a h
  · exact h
  · exact grantGrace_ok v a (by simp [valueValid] at hv; exact hv.2) h
  · exact forgiveDebt_ok _ a h

/-- An evaluation that submits an entry submits an account that keeps the rules (R60). -/
theorem evaluate_ok (f : Settings) (c : DayClock) (failed : Bool) (a : Account) (k : TokenKind) (n : BitVec 66)
    (t : TokenEntry) (hf : SettingsOk f) (h : AccountOk a) (he : evaluate f c failed a k n = .ok t) :
    AccountOk t.snapshot := by
  have hw : ∀ o, AccountOk (workingCopy f o a).acct := by
    intro o
    unfold workingCopy
    split
    · exact catchUp_ok f _ _ _ a hf h
    · exact h
  unfold evaluate at he
  simp only at he
  split at he
  · cases he
  · split at he
    · cases he
    · rename_i hv
      split at he
      · cases he
      · rename_i ha
        split at he
        · cases he
        · rename_i ho
          split at he
          · cases he
          · cases he
            exact applyToken_ok f k _ _ (hw _) (by simpa using hv) (by simpa using ha) (by simpa using ho)

/-- The account that provisioning loads keeps the rules (R27, R3). -/
theorem provisionedAccount_ok (f : Settings) (hf : SettingsOk f) : AccountOk (provisionedAccount f) := by
  have := hf.1
  by_cases h : 0 < f.initialCredit <;> simp [provisionedAccount, Account.unprovisioned, AccountOk, h] <;> omega

/-- The account of a provisioned part without a valid checkpoint keeps the rules (R27). -/
theorem unreplayedAccount_ok (f : Settings) : AccountOk (unreplayedAccount f) := by
  simp [unreplayedAccount, provisionedAccount, Account.unprovisioned, AccountOk]

/-- The account of a part without a valid record keeps the rules (R27). -/
theorem unprovisioned_ok : AccountOk Account.unprovisioned := by decide

/-- The settings read where there is no valid record keep their ranges. -/
theorem unprovisionedSettings_ok : SettingsOk Settings.unprovisioned := by decide

/-- Which clock time is later (Section 4.1). -/
theorem ClockTime.laterThan_iff (a b : ClockTime) :
    a.laterThan b = true ↔ b.day < a.day ∨ (a.day = b.day ∧ b.minute < a.minute) := by
  simp [ClockTime.laterThan]

end Sys2Proof.Machine
end

