-- ==== Sys2Proof/Laws/Flash.lean ====
section
/-! SUPPORT. The flash: a read after a write, and the canonical form kept by every operation. -/

namespace Sys2Proof.Machine

/-- Reading after a write gives the value written at its slot and the value before elsewhere. -/
theorem flashRead_flashWrite (f : Flash) (h : FlashWf f) (k j : Nat) (c : Slot) :
    flashRead (flashWrite f k c) j = if j = k then c else flashRead f j := by
  induction f with
  | nil => by_cases hc : c = .blank <;> simp [flashWrite, flashRead, hc]
  | cons x rest ih =>
    obtain ⟨k', c'⟩ := x
    obtain ⟨hp, hb⟩ := h
    rw [List.pairwise_cons] at hp
    have ih := ih ⟨hp.2, fun x hx => hb x (by simp [hx])⟩
    have absent : ∀ r : Flash, (∀ x ∈ r, k' < x.1) → ∀ i ≤ k', flashRead r i = .blank := by
      intro r hr i hi
      induction r with
      | nil => rfl
      | cons y r' ihr =>
        have hy := hr y (by simp)
        obtain ⟨a, b⟩ := y
        have : i ≠ a := by simp at hy; omega
        simp only [flashRead, this, if_false]
        exact ihr (fun x hx => hr x (by simp [hx]))
    unfold flashWrite
    by_cases h1 : k < k'
    · have hk : k ≠ k' := by omega
      have hr := absent rest hp.1 k (by omega)
      by_cases hc : c = .blank <;> by_cases hj : j = k <;> simp [h1, hc, hj, flashRead, hk, hr]
    · by_cases h2 : k = k'
      · subst h2
        have hr := absent rest hp.1 k le_rfl
        by_cases hc : c = .blank <;> by_cases hj : j = k <;> simp [hc, hj, flashRead, hr]
      · by_cases hj : j = k'
        · have : j ≠ k := by omega
          simp [h1, h2, flashRead, hj, Ne.symm h2]
        · simp [h1, h2, flashRead, hj, ih]

/-- The slots of a flash written to are those it had, and the one written. -/
theorem flashWrite_keys (f : Flash) (k : Nat) (c : Slot) (x : Nat × Slot) (h : x ∈ flashWrite f k c) :
    x ∈ f ∨ (x = (k, c) ∧ c ≠ .blank) := by
  induction f with
  | nil =>
    by_cases hc : c = .blank
    · simp [flashWrite, hc] at h
    · simp [flashWrite, hc] at h; exact .inr ⟨h, hc⟩
  | cons y rest ih =>
    obtain ⟨k', c'⟩ := y
    unfold flashWrite at h
    by_cases hc : c = .blank
    · rw [if_pos hc, if_pos hc] at h
      split at h
      · exact .inl h
      · split at h
        · exact .inl (List.mem_cons_of_mem _ h)
        · rcases List.mem_cons.1 h with rfl | h
          · exact .inl List.mem_cons_self
          · exact (ih h).imp_left (List.mem_cons_of_mem _)
    · rw [if_neg hc, if_neg hc] at h
      split at h
      · rcases List.mem_cons.1 h with rfl | h
        · exact .inr ⟨rfl, hc⟩
        · exact .inl h
      · split at h
        · rcases List.mem_cons.1 h with rfl | h
          · exact .inr ⟨rfl, hc⟩
          · exact .inl (List.mem_cons_of_mem _ h)
        · rcases List.mem_cons.1 h with rfl | h
          · exact .inl List.mem_cons_self
          · exact (ih h).imp_left (List.mem_cons_of_mem _)

/-- A write keeps the canonical form. -/
theorem flashWrite_wf (f : Flash) (k : Nat) (c : Slot) (h : FlashWf f) : FlashWf (flashWrite f k c) := by
  refine ⟨?_, fun x hx => (flashWrite_keys f k c x hx).elim (h.2 x) (fun hx => by rw [hx.1]; exact hx.2)⟩
  induction f with
  | nil => by_cases hc : c = .blank <;> simp [flashWrite, hc]
  | cons y rest ih =>
    obtain ⟨k', c'⟩ := y
    obtain ⟨hp, hb⟩ := h
    have hp' := hp
    rw [List.pairwise_cons] at hp
    have ih := ih ⟨hp.2, fun x hx => hb x (by simp [hx])⟩
    unfold flashWrite
    split
    · split
      · exact hp'
      · rename_i h1 _
        refine List.pairwise_cons.2 ⟨fun x hx => ?_, hp'⟩
        rcases List.mem_cons.1 hx with rfl | hx
        · exact h1
        · exact lt_trans h1 (hp.1 x hx)
    · split
      · rename_i h1 h2
        subst h2
        split
        · exact hp.2
        · exact List.pairwise_cons.2 ⟨hp.1, hp.2⟩
      · rename_i h1 h2
        refine List.pairwise_cons.2 ⟨fun x hx => ?_, ih⟩
        rcases flashWrite_keys rest k c x hx with hx | hx
        · exact hp.1 x hx
        · rw [hx.1]; simp; omega

/-- An erase keeps the canonical form. -/
theorem flashErase_wf (f : Flash) (sector : Nat) (h : FlashWf f) : FlashWf (flashErase f sector) :=
  ⟨h.1.filter _, fun x hx => h.2 x (List.mem_filter.1 hx).1⟩

/-- After an erase every slot of the sector reads blank and every other slot as before. -/
theorem flashRead_flashErase (f : Flash) (sector k : Nat) :
    flashRead (flashErase f sector) k = if k / 60 = sector then .blank else flashRead f k := by
  induction f with
  | nil => simp [flashErase, flashRead]
  | cons x rest ih =>
    obtain ⟨a, c⟩ := x
    have key : flashErase ((a, c) :: rest) sector
        = if a / 60 ≠ sector then (a, c) :: flashErase rest sector else flashErase rest sector := by
      by_cases h : a / 60 = sector <;> simp [flashErase, h]
    rw [key]
    by_cases h : a / 60 = sector
    · simp only [h, ne_eq, not_true_eq_false, if_false, ih, flashRead]
      by_cases hk : k = a
      · simp [hk, h]
      · simp [hk]
    · simp only [ne_eq, h, not_false_eq_true, if_true, flashRead, ih]
      by_cases hk : k = a
      · simp [hk, h]
      · simp [hk]

/-- What an incomplete erase leaves of one slot keeps the canonical form. -/
theorem leaveSlot_wf (f : Flash) (k : Nat) (l : SlotLeft) (h : FlashWf f) : FlashWf (leaveSlot f k l) := by
  cases l
  · exact h
  · exact flashWrite_wf f k .damaged h
  · exact flashWrite_wf f k .blank h

/-- What an incomplete erase leaves of a sector keeps the canonical form. -/
theorem leaveSlots_wf (f : Flash) (sector : Nat) (left : List SlotLeft) (n : Nat) (h : FlashWf f) :
    FlashWf (leaveSlots f sector left n) := by
  induction n with
  | zero => exact h
  | succ n ih => exact leaveSlot_wf _ _ _ ih

/-- A failed erase keeps the canonical form. -/
theorem flashEraseFailed_wf (f : Flash) (sector : Nat) (left : List SlotLeft) (h : FlashWf f) :
    FlashWf (flashEraseFailed f sector left) := leaveSlots_wf f sector left 60 h

/-- A cut erase keeps the canonical form. -/
theorem flashEraseCut_wf (f : Flash) (sector : Nat) (left : List SlotLeft) (h : FlashWf f) :
    FlashWf (flashEraseCut f sector left) := by
  unfold flashEraseCut
  split
  · exact flashWrite_wf _ _ _ (leaveSlots_wf f sector left 60 h)
  · exact leaveSlots_wf f sector left 60 h

/-- A cut flash operation keeps the canonical form. -/
theorem cutOperation_wf (cut : FlashCut) (s : State) (h : FlashWf s.flash) : FlashWf (cutOperation cut s).flash := by
  unfold cutOperation
  split
  · exact h
  · exact flashEraseCut_wf _ _ _ h
  · split
    · exact flashWrite_wf _ _ _ h
    · exact h
  · split
    · exact flashWrite_wf _ _ _ h
    · exact h

/-- The slots of a flash after a cut or failed erase are those it had, or damaged. -/
theorem leaveSlots_keys (f : Flash) (sector : Nat) (left : List SlotLeft) (n : Nat) (x : Nat × Slot)
    (h : x ∈ leaveSlots f sector left n) : x ∈ f ∨ x.2 = .damaged := by
  induction n with
  | zero => exact .inl h
  | succ n ih =>
    simp only [leaveSlots] at h
    generalize (left[n]?.getD .damaged) = l at h
    cases l
    · exact ih h
    · rcases flashWrite_keys _ _ _ x h with h | h
      · exact ih h
      · rw [h.1]; simp
    · rcases flashWrite_keys _ _ _ x h with h | h
      · exact ih h
      · exact absurd rfl h.2

/-- What a slot reads after an incomplete erase has been at the first `n` slots of a sector. -/
theorem flashRead_leaveSlots (f : Flash) (h : FlashWf f) (sector : Nat) (left : List SlotLeft) (n k : Nat) :
    flashRead (leaveSlots f sector left n) k =
      if sector * 60 ≤ k ∧ k < sector * 60 + n then
        match left[k - sector * 60]?.getD .damaged with
        | .kept => flashRead f k
        | .damaged => .damaged
        | .blank => .blank
      else flashRead f k := by
  induction n with
  | zero => rw [if_neg (by omega)]; rfl
  | succ n ih =>
    by_cases hk : k = sector * 60 + n
    · subst hk
      rw [if_neg (by omega)] at ih
      rw [if_pos (by omega), Nat.add_sub_cancel_left]
      simp only [leaveSlots, slotNumber]
      cases left[n]?.getD .damaged <;> simp [leaveSlot, ih, flashRead_flashWrite _ (leaveSlots_wf f sector left n h)]
    · have hr : flashRead (leaveSlots f sector left (n + 1)) k = flashRead (leaveSlots f sector left n) k := by
        simp only [leaveSlots, slotNumber]
        cases left[n]?.getD .damaged <;>
          simp [leaveSlot, flashRead_flashWrite _ (leaveSlots_wf f sector left n h), hk]
      rw [hr, ih]
      exact if_congr (by omega) rfl rfl

/-- What a slot reads after a sector's erase has failed its verify (R141). -/
theorem flashRead_flashEraseFailed (f : Flash) (h : FlashWf f) (sector : Nat) (left : List SlotLeft) (k : Nat) :
    flashRead (flashEraseFailed f sector left) k =
      if k / 60 = sector then
        match left[k % 60]?.getD .damaged with
        | .kept => flashRead f k
        | .damaged => .damaged
        | .blank => .blank
      else flashRead f k := by
  rw [flashEraseFailed, flashRead_leaveSlots f h]
  by_cases hk : k / 60 = sector
  · have : k - sector * 60 = k % 60 := by omega
    rw [if_pos hk, if_pos (by omega), this]
  · rw [if_neg hk, if_neg (by omega)]

end Sys2Proof.Machine
end

