-- ==== Sys2Proof/Laws/State.lean ====
section
/-! SUPPORT. What each shared operation leaves of the state: one lemma for each field it does not touch, so that no later proof unfolds it. -/

-- One proof at a time: many at once wait on one another and use more threads than the checks allow.
set_option Elab.async false

namespace Sys2Proof.Machine

/-! Raising a cause touches the link alone (R171). -/

@[simp] theorem raise_pending (c : NoticeCause) (s : State) : (raise c s).pending = s.pending := by
  unfold raise; split <;> rfl
@[simp] theorem raise_provisioning (c : NoticeCause) (s : State) : (raise c s).provisioning = s.provisioning := by
  unfold raise; split <;> rfl
@[simp] theorem raise_flash (c : NoticeCause) (s : State) : (raise c s).flash = s.flash := by
  unfold raise; split <;> rfl
@[simp] theorem raise_domain (c : NoticeCause) (s : State) : (raise c s).domain = s.domain := by
  unfold raise; split <;> rfl
@[simp] theorem raise_account (c : NoticeCause) (s : State) : (raise c s).account = s.account := by
  unfold raise; split <;> rfl
@[simp] theorem raise_tokens (c : NoticeCause) (s : State) : (raise c s).tokens = s.tokens := by
  unfold raise; split <;> rfl
@[simp] theorem raise_digests (c : NoticeCause) (s : State) : (raise c s).digests = s.digests := by
  unfold raise; split <;> rfl
@[simp] theorem raise_meter (c : NoticeCause) (s : State) : (raise c s).meter = s.meter := by
  unfold raise; split <;> rfl
@[simp] theorem raise_switches (c : NoticeCause) (s : State) : (raise c s).switches = s.switches := by
  unfold raise; split <;> rfl
@[simp] theorem raise_supply (c : NoticeCause) (s : State) : (raise c s).supply = s.supply := by
  unfold raise; split <;> rfl
@[simp] theorem raise_journal (c : NoticeCause) (s : State) : (raise c s).journal = s.journal := by
  unfold raise; split <;> rfl
@[simp] theorem raise_relay (c : NoticeCause) (s : State) : (raise c s).relay = s.relay := by
  unfold raise; split <;> rfl
@[simp] theorem raise_idleMilliseconds (c : NoticeCause) (s : State) : (raise c s).idleMilliseconds = s.idleMilliseconds := by
  unfold raise; split <;> rfl

/-! Raising on a condition. -/

@[simp] theorem raiseIf_pending (b : Bool) (c : NoticeCause) (s : State) : (raiseIf b c s).pending = s.pending := by
  unfold raiseIf; split <;> simp
@[simp] theorem raiseIf_provisioning (b : Bool) (c : NoticeCause) (s : State) : (raiseIf b c s).provisioning = s.provisioning := by
  unfold raiseIf; split <;> simp
@[simp] theorem raiseIf_flash (b : Bool) (c : NoticeCause) (s : State) : (raiseIf b c s).flash = s.flash := by
  unfold raiseIf; split <;> simp
@[simp] theorem raiseIf_domain (b : Bool) (c : NoticeCause) (s : State) : (raiseIf b c s).domain = s.domain := by
  unfold raiseIf; split <;> simp
@[simp] theorem raiseIf_account (b : Bool) (c : NoticeCause) (s : State) : (raiseIf b c s).account = s.account := by
  unfold raiseIf; split <;> simp
@[simp] theorem raiseIf_tokens (b : Bool) (c : NoticeCause) (s : State) : (raiseIf b c s).tokens = s.tokens := by
  unfold raiseIf; split <;> simp
@[simp] theorem raiseIf_digests (b : Bool) (c : NoticeCause) (s : State) : (raiseIf b c s).digests = s.digests := by
  unfold raiseIf; split <;> simp
@[simp] theorem raiseIf_meter (b : Bool) (c : NoticeCause) (s : State) : (raiseIf b c s).meter = s.meter := by
  unfold raiseIf; split <;> simp
@[simp] theorem raiseIf_switches (b : Bool) (c : NoticeCause) (s : State) : (raiseIf b c s).switches = s.switches := by
  unfold raiseIf; split <;> simp
@[simp] theorem raiseIf_supply (b : Bool) (c : NoticeCause) (s : State) : (raiseIf b c s).supply = s.supply := by
  unfold raiseIf; split <;> simp
@[simp] theorem raiseIf_journal (b : Bool) (c : NoticeCause) (s : State) : (raiseIf b c s).journal = s.journal := by
  unfold raiseIf; split <;> simp
@[simp] theorem raiseIf_relay (b : Bool) (c : NoticeCause) (s : State) : (raiseIf b c s).relay = s.relay := by
  unfold raiseIf; split <;> simp
@[simp] theorem raiseIf_idleMilliseconds (b : Bool) (c : NoticeCause) (s : State) : (raiseIf b c s).idleMilliseconds = s.idleMilliseconds := by
  unfold raiseIf; split <;> simp

/-! Completing a reply touches the link alone (R169). -/

@[simp] theorem completeReply_pending (r : Reply) (s : State) : (completeReply r s).pending = s.pending := by
  unfold completeReply; split <;> rfl
@[simp] theorem completeReply_provisioning (r : Reply) (s : State) : (completeReply r s).provisioning = s.provisioning := by
  unfold completeReply; split <;> rfl
@[simp] theorem completeReply_flash (r : Reply) (s : State) : (completeReply r s).flash = s.flash := by
  unfold completeReply; split <;> rfl
@[simp] theorem completeReply_domain (r : Reply) (s : State) : (completeReply r s).domain = s.domain := by
  unfold completeReply; split <;> rfl
@[simp] theorem completeReply_account (r : Reply) (s : State) : (completeReply r s).account = s.account := by
  unfold completeReply; split <;> rfl
@[simp] theorem completeReply_tokens (r : Reply) (s : State) : (completeReply r s).tokens = s.tokens := by
  unfold completeReply; split <;> rfl
@[simp] theorem completeReply_digests (r : Reply) (s : State) : (completeReply r s).digests = s.digests := by
  unfold completeReply; split <;> rfl
@[simp] theorem completeReply_meter (r : Reply) (s : State) : (completeReply r s).meter = s.meter := by
  unfold completeReply; split <;> rfl
@[simp] theorem completeReply_switches (r : Reply) (s : State) : (completeReply r s).switches = s.switches := by
  unfold completeReply; split <;> rfl
@[simp] theorem completeReply_supply (r : Reply) (s : State) : (completeReply r s).supply = s.supply := by
  unfold completeReply; split <;> rfl
@[simp] theorem completeReply_journal (r : Reply) (s : State) : (completeReply r s).journal = s.journal := by
  unfold completeReply; split <;> rfl
@[simp] theorem completeReply_relay (r : Reply) (s : State) : (completeReply r s).relay = s.relay := by
  unfold completeReply; split <;> rfl
@[simp] theorem completeReply_idleMilliseconds (r : Reply) (s : State) : (completeReply r s).idleMilliseconds = s.idleMilliseconds := by
  unfold completeReply; split <;> rfl

/-! Answering a request. -/

@[simp] theorem answer_pending (q : Request) (b : List Byte) (s : State) : (answer q b s).pending = s.pending := by
  simp [answer]
@[simp] theorem answer_provisioning (q : Request) (b : List Byte) (s : State) : (answer q b s).provisioning = s.provisioning := by
  simp [answer]
@[simp] theorem answer_flash (q : Request) (b : List Byte) (s : State) : (answer q b s).flash = s.flash := by
  simp [answer]
@[simp] theorem answer_domain (q : Request) (b : List Byte) (s : State) : (answer q b s).domain = s.domain := by
  simp [answer]
@[simp] theorem answer_account (q : Request) (b : List Byte) (s : State) : (answer q b s).account = s.account := by
  simp [answer]
@[simp] theorem answer_tokens (q : Request) (b : List Byte) (s : State) : (answer q b s).tokens = s.tokens := by
  simp [answer]
@[simp] theorem answer_digests (q : Request) (b : List Byte) (s : State) : (answer q b s).digests = s.digests := by
  simp [answer]
@[simp] theorem answer_meter (q : Request) (b : List Byte) (s : State) : (answer q b s).meter = s.meter := by
  simp [answer]
@[simp] theorem answer_switches (q : Request) (b : List Byte) (s : State) : (answer q b s).switches = s.switches := by
  simp [answer]
@[simp] theorem answer_supply (q : Request) (b : List Byte) (s : State) : (answer q b s).supply = s.supply := by
  simp [answer]
@[simp] theorem answer_journal (q : Request) (b : List Byte) (s : State) : (answer q b s).journal = s.journal := by
  simp [answer]
@[simp] theorem answer_relay (q : Request) (b : List Byte) (s : State) : (answer q b s).relay = s.relay := by
  simp [answer]
@[simp] theorem answer_idleMilliseconds (q : Request) (b : List Byte) (s : State) : (answer q b s).idleMilliseconds = s.idleMilliseconds := by
  simp [answer]

/-! Answering with a result alone. -/

@[simp] theorem answerResult_pending (q : Request) (r : ReplyResult) (s : State) : (answerResult q r s).pending = s.pending := by
  simp [answerResult]
@[simp] theorem answerResult_provisioning (q : Request) (r : ReplyResult) (s : State) : (answerResult q r s).provisioning = s.provisioning := by
  simp [answerResult]
@[simp] theorem answerResult_flash (q : Request) (r : ReplyResult) (s : State) : (answerResult q r s).flash = s.flash := by
  simp [answerResult]
@[simp] theorem answerResult_domain (q : Request) (r : ReplyResult) (s : State) : (answerResult q r s).domain = s.domain := by
  simp [answerResult]
@[simp] theorem answerResult_account (q : Request) (r : ReplyResult) (s : State) : (answerResult q r s).account = s.account := by
  simp [answerResult]
@[simp] theorem answerResult_tokens (q : Request) (r : ReplyResult) (s : State) : (answerResult q r s).tokens = s.tokens := by
  simp [answerResult]
@[simp] theorem answerResult_digests (q : Request) (r : ReplyResult) (s : State) : (answerResult q r s).digests = s.digests := by
  simp [answerResult]
@[simp] theorem answerResult_meter (q : Request) (r : ReplyResult) (s : State) : (answerResult q r s).meter = s.meter := by
  simp [answerResult]
@[simp] theorem answerResult_switches (q : Request) (r : ReplyResult) (s : State) : (answerResult q r s).switches = s.switches := by
  simp [answerResult]
@[simp] theorem answerResult_supply (q : Request) (r : ReplyResult) (s : State) : (answerResult q r s).supply = s.supply := by
  simp [answerResult]
@[simp] theorem answerResult_journal (q : Request) (r : ReplyResult) (s : State) : (answerResult q r s).journal = s.journal := by
  simp [answerResult]
@[simp] theorem answerResult_relay (q : Request) (r : ReplyResult) (s : State) : (answerResult q r s).relay = s.relay := by
  simp [answerResult]
@[simp] theorem answerResult_idleMilliseconds (q : Request) (r : ReplyResult) (s : State) : (answerResult q r s).idleMilliseconds = s.idleMilliseconds := by
  simp [answerResult]

/-! A digest request touches the digest list alone (R68). -/

@[simp] theorem requestDigest_pending (r : DigestRequest) (s : State) : (requestDigest r s).pending = s.pending := by
  unfold requestDigest; split <;> rfl
@[simp] theorem requestDigest_provisioning (r : DigestRequest) (s : State) : (requestDigest r s).provisioning = s.provisioning := by
  unfold requestDigest; split <;> rfl
@[simp] theorem requestDigest_flash (r : DigestRequest) (s : State) : (requestDigest r s).flash = s.flash := by
  unfold requestDigest; split <;> rfl
@[simp] theorem requestDigest_domain (r : DigestRequest) (s : State) : (requestDigest r s).domain = s.domain := by
  unfold requestDigest; split <;> rfl
@[simp] theorem requestDigest_account (r : DigestRequest) (s : State) : (requestDigest r s).account = s.account := by
  unfold requestDigest; split <;> rfl
@[simp] theorem requestDigest_tokens (r : DigestRequest) (s : State) : (requestDigest r s).tokens = s.tokens := by
  unfold requestDigest; split <;> rfl
@[simp] theorem requestDigest_meter (r : DigestRequest) (s : State) : (requestDigest r s).meter = s.meter := by
  unfold requestDigest; split <;> rfl
@[simp] theorem requestDigest_switches (r : DigestRequest) (s : State) : (requestDigest r s).switches = s.switches := by
  unfold requestDigest; split <;> rfl
@[simp] theorem requestDigest_supply (r : DigestRequest) (s : State) : (requestDigest r s).supply = s.supply := by
  unfold requestDigest; split <;> rfl
@[simp] theorem requestDigest_journal (r : DigestRequest) (s : State) : (requestDigest r s).journal = s.journal := by
  unfold requestDigest; split <;> rfl
@[simp] theorem requestDigest_relay (r : DigestRequest) (s : State) : (requestDigest r s).relay = s.relay := by
  unfold requestDigest; split <;> rfl
@[simp] theorem requestDigest_link (r : DigestRequest) (s : State) : (requestDigest r s).link = s.link := by
  unfold requestDigest; split <;> rfl
@[simp] theorem requestDigest_idleMilliseconds (r : DigestRequest) (s : State) : (requestDigest r s).idleMilliseconds = s.idleMilliseconds := by
  unfold requestDigest; split <;> rfl

/-! Submitting a TALLY touches the journal alone (R137). -/

@[simp] theorem submitTally_pending (b : Bool) (s : State) : (submitTally b s).pending = s.pending := by
  unfold submitTally; split
  · rfl
  · split <;> rfl
@[simp] theorem submitTally_provisioning (b : Bool) (s : State) : (submitTally b s).provisioning = s.provisioning := by
  unfold submitTally; split
  · rfl
  · split <;> rfl
@[simp] theorem submitTally_flash (b : Bool) (s : State) : (submitTally b s).flash = s.flash := by
  unfold submitTally; split
  · rfl
  · split <;> rfl
@[simp] theorem submitTally_domain (b : Bool) (s : State) : (submitTally b s).domain = s.domain := by
  unfold submitTally; split
  · rfl
  · split <;> rfl
@[simp] theorem submitTally_account (b : Bool) (s : State) : (submitTally b s).account = s.account := by
  unfold submitTally; split
  · rfl
  · split <;> rfl
@[simp] theorem submitTally_tokens (b : Bool) (s : State) : (submitTally b s).tokens = s.tokens := by
  unfold submitTally; split
  · rfl
  · split <;> rfl
@[simp] theorem submitTally_digests (b : Bool) (s : State) : (submitTally b s).digests = s.digests := by
  unfold submitTally; split
  · rfl
  · split <;> rfl
@[simp] theorem submitTally_meter (b : Bool) (s : State) : (submitTally b s).meter = s.meter := by
  unfold submitTally; split
  · rfl
  · split <;> rfl
@[simp] theorem submitTally_switches (b : Bool) (s : State) : (submitTally b s).switches = s.switches := by
  unfold submitTally; split
  · rfl
  · split <;> rfl
@[simp] theorem submitTally_supply (b : Bool) (s : State) : (submitTally b s).supply = s.supply := by
  unfold submitTally; split
  · rfl
  · split <;> rfl
@[simp] theorem submitTally_relay (b : Bool) (s : State) : (submitTally b s).relay = s.relay := by
  unfold submitTally; split
  · rfl
  · split <;> rfl
@[simp] theorem submitTally_link (b : Bool) (s : State) : (submitTally b s).link = s.link := by
  unfold submitTally; split
  · rfl
  · split <;> rfl
@[simp] theorem submitTally_idleMilliseconds (b : Bool) (s : State) : (submitTally b s).idleMilliseconds = s.idleMilliseconds := by
  unfold submitTally; split
  · rfl
  · split <;> rfl

/-! Submitting another entry touches the journal alone (R136). -/

@[simp] theorem submitEntry_pending (q : Queued) (s : State) : (submitEntry q s).pending = s.pending := by
  unfold submitEntry; split <;> rfl
@[simp] theorem submitEntry_provisioning (q : Queued) (s : State) : (submitEntry q s).provisioning = s.provisioning := by
  unfold submitEntry; split <;> rfl
@[simp] theorem submitEntry_flash (q : Queued) (s : State) : (submitEntry q s).flash = s.flash := by
  unfold submitEntry; split <;> rfl
@[simp] theorem submitEntry_domain (q : Queued) (s : State) : (submitEntry q s).domain = s.domain := by
  unfold submitEntry; split <;> rfl
@[simp] theorem submitEntry_account (q : Queued) (s : State) : (submitEntry q s).account = s.account := by
  unfold submitEntry; split <;> rfl
@[simp] theorem submitEntry_tokens (q : Queued) (s : State) : (submitEntry q s).tokens = s.tokens := by
  unfold submitEntry; split <;> rfl
@[simp] theorem submitEntry_digests (q : Queued) (s : State) : (submitEntry q s).digests = s.digests := by
  unfold submitEntry; split <;> rfl
@[simp] theorem submitEntry_meter (q : Queued) (s : State) : (submitEntry q s).meter = s.meter := by
  unfold submitEntry; split <;> rfl
@[simp] theorem submitEntry_switches (q : Queued) (s : State) : (submitEntry q s).switches = s.switches := by
  unfold submitEntry; split <;> rfl
@[simp] theorem submitEntry_supply (q : Queued) (s : State) : (submitEntry q s).supply = s.supply := by
  unfold submitEntry; split <;> rfl
@[simp] theorem submitEntry_relay (q : Queued) (s : State) : (submitEntry q s).relay = s.relay := by
  unfold submitEntry; split <;> rfl
@[simp] theorem submitEntry_link (q : Queued) (s : State) : (submitEntry q s).link = s.link := by
  unfold submitEntry; split <;> rfl
@[simp] theorem submitEntry_idleMilliseconds (q : Queued) (s : State) : (submitEntry q s).idleMilliseconds = s.idleMilliseconds := by
  unfold submitEntry; split <;> rfl

/-! Acting on one port touches the switches alone. -/

@[simp] theorem onPort_pending (i : Fin 4) (f : Port → Port) (s : State) : (onPort i f s).pending = s.pending := by
  unfold onPort; split <;> rfl
@[simp] theorem onPort_provisioning (i : Fin 4) (f : Port → Port) (s : State) : (onPort i f s).provisioning = s.provisioning := by
  unfold onPort; split <;> rfl
@[simp] theorem onPort_flash (i : Fin 4) (f : Port → Port) (s : State) : (onPort i f s).flash = s.flash := by
  unfold onPort; split <;> rfl
@[simp] theorem onPort_domain (i : Fin 4) (f : Port → Port) (s : State) : (onPort i f s).domain = s.domain := by
  unfold onPort; split <;> rfl
@[simp] theorem onPort_account (i : Fin 4) (f : Port → Port) (s : State) : (onPort i f s).account = s.account := by
  unfold onPort; split <;> rfl
@[simp] theorem onPort_tokens (i : Fin 4) (f : Port → Port) (s : State) : (onPort i f s).tokens = s.tokens := by
  unfold onPort; split <;> rfl
@[simp] theorem onPort_digests (i : Fin 4) (f : Port → Port) (s : State) : (onPort i f s).digests = s.digests := by
  unfold onPort; split <;> rfl
@[simp] theorem onPort_meter (i : Fin 4) (f : Port → Port) (s : State) : (onPort i f s).meter = s.meter := by
  unfold onPort; split <;> rfl
@[simp] theorem onPort_supply (i : Fin 4) (f : Port → Port) (s : State) : (onPort i f s).supply = s.supply := by
  unfold onPort; split <;> rfl
@[simp] theorem onPort_journal (i : Fin 4) (f : Port → Port) (s : State) : (onPort i f s).journal = s.journal := by
  unfold onPort; split <;> rfl
@[simp] theorem onPort_relay (i : Fin 4) (f : Port → Port) (s : State) : (onPort i f s).relay = s.relay := by
  unfold onPort; split <;> rfl
@[simp] theorem onPort_link (i : Fin 4) (f : Port → Port) (s : State) : (onPort i f s).link = s.link := by
  unfold onPort; split <;> rfl
@[simp] theorem onPort_idleMilliseconds (i : Fin 4) (f : Port → Port) (s : State) : (onPort i f s).idleMilliseconds = s.idleMilliseconds := by
  unfold onPort; split <;> rfl

/-! Acting on the ports touches the switches alone. -/

@[simp] theorem onPorts_pending (f : Port → Port) (s : State) : (onPorts f s).pending = s.pending := by
  unfold onPorts; split <;> rfl
@[simp] theorem onPorts_provisioning (f : Port → Port) (s : State) : (onPorts f s).provisioning = s.provisioning := by
  unfold onPorts; split <;> rfl
@[simp] theorem onPorts_flash (f : Port → Port) (s : State) : (onPorts f s).flash = s.flash := by
  unfold onPorts; split <;> rfl
@[simp] theorem onPorts_domain (f : Port → Port) (s : State) : (onPorts f s).domain = s.domain := by
  unfold onPorts; split <;> rfl
@[simp] theorem onPorts_account (f : Port → Port) (s : State) : (onPorts f s).account = s.account := by
  unfold onPorts; split <;> rfl
@[simp] theorem onPorts_tokens (f : Port → Port) (s : State) : (onPorts f s).tokens = s.tokens := by
  unfold onPorts; split <;> rfl
@[simp] theorem onPorts_digests (f : Port → Port) (s : State) : (onPorts f s).digests = s.digests := by
  unfold onPorts; split <;> rfl
@[simp] theorem onPorts_meter (f : Port → Port) (s : State) : (onPorts f s).meter = s.meter := by
  unfold onPorts; split <;> rfl
@[simp] theorem onPorts_supply (f : Port → Port) (s : State) : (onPorts f s).supply = s.supply := by
  unfold onPorts; split <;> rfl
@[simp] theorem onPorts_journal (f : Port → Port) (s : State) : (onPorts f s).journal = s.journal := by
  unfold onPorts; split <;> rfl
@[simp] theorem onPorts_relay (f : Port → Port) (s : State) : (onPorts f s).relay = s.relay := by
  unfold onPorts; split <;> rfl
@[simp] theorem onPorts_link (f : Port → Port) (s : State) : (onPorts f s).link = s.link := by
  unfold onPorts; split <;> rfl
@[simp] theorem onPorts_idleMilliseconds (f : Port → Port) (s : State) : (onPorts f s).idleMilliseconds = s.idleMilliseconds := by
  unfold onPorts; split <;> rfl

/-! Giving the caps touches the switches alone (R24). -/

@[simp] theorem giveCaps_pending (s : State) : (giveCaps s).pending = s.pending := by
  unfold giveCaps; split <;> rfl
@[simp] theorem giveCaps_provisioning (s : State) : (giveCaps s).provisioning = s.provisioning := by
  unfold giveCaps; split <;> rfl
@[simp] theorem giveCaps_flash (s : State) : (giveCaps s).flash = s.flash := by
  unfold giveCaps; split <;> rfl
@[simp] theorem giveCaps_domain (s : State) : (giveCaps s).domain = s.domain := by
  unfold giveCaps; split <;> rfl
@[simp] theorem giveCaps_account (s : State) : (giveCaps s).account = s.account := by
  unfold giveCaps; split <;> rfl
@[simp] theorem giveCaps_tokens (s : State) : (giveCaps s).tokens = s.tokens := by
  unfold giveCaps; split <;> rfl
@[simp] theorem giveCaps_digests (s : State) : (giveCaps s).digests = s.digests := by
  unfold giveCaps; split <;> rfl
@[simp] theorem giveCaps_meter (s : State) : (giveCaps s).meter = s.meter := by
  unfold giveCaps; split <;> rfl
@[simp] theorem giveCaps_supply (s : State) : (giveCaps s).supply = s.supply := by
  unfold giveCaps; split <;> rfl
@[simp] theorem giveCaps_journal (s : State) : (giveCaps s).journal = s.journal := by
  unfold giveCaps; split <;> rfl
@[simp] theorem giveCaps_relay (s : State) : (giveCaps s).relay = s.relay := by
  unfold giveCaps; split <;> rfl
@[simp] theorem giveCaps_link (s : State) : (giveCaps s).link = s.link := by
  unfold giveCaps; split <;> rfl
@[simp] theorem giveCaps_idleMilliseconds (s : State) : (giveCaps s).idleMilliseconds = s.idleMilliseconds := by
  unfold giveCaps; split <;> rfl

/-! Giving the shed level touches the switches alone (R106). -/

@[simp] theorem giveShedLevel_pending (s : State) : (giveShedLevel s).pending = s.pending := by
  unfold giveShedLevel; split <;> rfl
@[simp] theorem giveShedLevel_provisioning (s : State) : (giveShedLevel s).provisioning = s.provisioning := by
  unfold giveShedLevel; split <;> rfl
@[simp] theorem giveShedLevel_flash (s : State) : (giveShedLevel s).flash = s.flash := by
  unfold giveShedLevel; split <;> rfl
@[simp] theorem giveShedLevel_domain (s : State) : (giveShedLevel s).domain = s.domain := by
  unfold giveShedLevel; split <;> rfl
@[simp] theorem giveShedLevel_account (s : State) : (giveShedLevel s).account = s.account := by
  unfold giveShedLevel; split <;> rfl
@[simp] theorem giveShedLevel_tokens (s : State) : (giveShedLevel s).tokens = s.tokens := by
  unfold giveShedLevel; split <;> rfl
@[simp] theorem giveShedLevel_digests (s : State) : (giveShedLevel s).digests = s.digests := by
  unfold giveShedLevel; split <;> rfl
@[simp] theorem giveShedLevel_meter (s : State) : (giveShedLevel s).meter = s.meter := by
  unfold giveShedLevel; split <;> rfl
@[simp] theorem giveShedLevel_supply (s : State) : (giveShedLevel s).supply = s.supply := by
  unfold giveShedLevel; split <;> rfl
@[simp] theorem giveShedLevel_journal (s : State) : (giveShedLevel s).journal = s.journal := by
  unfold giveShedLevel; split <;> rfl
@[simp] theorem giveShedLevel_relay (s : State) : (giveShedLevel s).relay = s.relay := by
  unfold giveShedLevel; split <;> rfl
@[simp] theorem giveShedLevel_link (s : State) : (giveShedLevel s).link = s.link := by
  unfold giveShedLevel; split <;> rfl
@[simp] theorem giveShedLevel_idleMilliseconds (s : State) : (giveShedLevel s).idleMilliseconds = s.idleMilliseconds := by
  unfold giveShedLevel; split <;> rfl

/-! Settling an intake entry touches the Token Unit and the link (R63, R64). -/

@[simp] theorem settleToken_pending (r : TokenResult) (x : List Byte) (s : State) : (settleToken r x s).pending = s.pending := by
  unfold settleToken; split
  · rfl
  · split <;> simp
@[simp] theorem settleToken_provisioning (r : TokenResult) (x : List Byte) (s : State) : (settleToken r x s).provisioning = s.provisioning := by
  unfold settleToken; split
  · rfl
  · split <;> simp
@[simp] theorem settleToken_flash (r : TokenResult) (x : List Byte) (s : State) : (settleToken r x s).flash = s.flash := by
  unfold settleToken; split
  · rfl
  · split <;> simp
@[simp] theorem settleToken_domain (r : TokenResult) (x : List Byte) (s : State) : (settleToken r x s).domain = s.domain := by
  unfold settleToken; split
  · rfl
  · split <;> simp
@[simp] theorem settleToken_account (r : TokenResult) (x : List Byte) (s : State) : (settleToken r x s).account = s.account := by
  unfold settleToken; split
  · rfl
  · split <;> simp
@[simp] theorem settleToken_digests (r : TokenResult) (x : List Byte) (s : State) : (settleToken r x s).digests = s.digests := by
  unfold settleToken; split
  · rfl
  · split <;> simp
@[simp] theorem settleToken_meter (r : TokenResult) (x : List Byte) (s : State) : (settleToken r x s).meter = s.meter := by
  unfold settleToken; split
  · rfl
  · split <;> simp
@[simp] theorem settleToken_switches (r : TokenResult) (x : List Byte) (s : State) : (settleToken r x s).switches = s.switches := by
  unfold settleToken; split
  · rfl
  · split <;> simp
@[simp] theorem settleToken_supply (r : TokenResult) (x : List Byte) (s : State) : (settleToken r x s).supply = s.supply := by
  unfold settleToken; split
  · rfl
  · split <;> simp
@[simp] theorem settleToken_journal (r : TokenResult) (x : List Byte) (s : State) : (settleToken r x s).journal = s.journal := by
  unfold settleToken; split
  · rfl
  · split <;> simp
@[simp] theorem settleToken_relay (r : TokenResult) (x : List Byte) (s : State) : (settleToken r x s).relay = s.relay := by
  unfold settleToken; split
  · rfl
  · split <;> simp
@[simp] theorem settleToken_idleMilliseconds (r : TokenResult) (x : List Byte) (s : State) : (settleToken r x s).idleMilliseconds = s.idleMilliseconds := by
  unfold settleToken; split
  · rfl
  · split <;> simp

/-! Taking intake entries into service touches the Token Unit, the digest list and the link (R48). -/

@[simp] theorem serveTokens_pending (n : Nat) (s : State) : (serveTokens n s).pending = s.pending := by
  induction n generalizing s with
  | zero => rfl
  | succ n ih =>
    unfold serveTokens
    split
    · split
      · rfl
      · split <;> simp_all
    · rfl
@[simp] theorem serveTokens_provisioning (n : Nat) (s : State) : (serveTokens n s).provisioning = s.provisioning := by
  induction n generalizing s with
  | zero => rfl
  | succ n ih =>
    unfold serveTokens
    split
    · split
      · rfl
      · split <;> simp_all
    · rfl
@[simp] theorem serveTokens_flash (n : Nat) (s : State) : (serveTokens n s).flash = s.flash := by
  induction n generalizing s with
  | zero => rfl
  | succ n ih =>
    unfold serveTokens
    split
    · split
      · rfl
      · split <;> simp_all
    · rfl
@[simp] theorem serveTokens_domain (n : Nat) (s : State) : (serveTokens n s).domain = s.domain := by
  induction n generalizing s with
  | zero => rfl
  | succ n ih =>
    unfold serveTokens
    split
    · split
      · rfl
      · split <;> simp_all
    · rfl
@[simp] theorem serveTokens_account (n : Nat) (s : State) : (serveTokens n s).account = s.account := by
  induction n generalizing s with
  | zero => rfl
  | succ n ih =>
    unfold serveTokens
    split
    · split
      · rfl
      · split <;> simp_all
    · rfl
@[simp] theorem serveTokens_meter (n : Nat) (s : State) : (serveTokens n s).meter = s.meter := by
  induction n generalizing s with
  | zero => rfl
  | succ n ih =>
    unfold serveTokens
    split
    · split
      · rfl
      · split <;> simp_all
    · rfl
@[simp] theorem serveTokens_switches (n : Nat) (s : State) : (serveTokens n s).switches = s.switches := by
  induction n generalizing s with
  | zero => rfl
  | succ n ih =>
    unfold serveTokens
    split
    · split
      · rfl
      · split <;> simp_all
    · rfl
@[simp] theorem serveTokens_supply (n : Nat) (s : State) : (serveTokens n s).supply = s.supply := by
  induction n generalizing s with
  | zero => rfl
  | succ n ih =>
    unfold serveTokens
    split
    · split
      · rfl
      · split <;> simp_all
    · rfl
@[simp] theorem serveTokens_journal (n : Nat) (s : State) : (serveTokens n s).journal = s.journal := by
  induction n generalizing s with
  | zero => rfl
  | succ n ih =>
    unfold serveTokens
    split
    · split
      · rfl
      · split <;> simp_all
    · rfl
@[simp] theorem serveTokens_relay (n : Nat) (s : State) : (serveTokens n s).relay = s.relay := by
  induction n generalizing s with
  | zero => rfl
  | succ n ih =>
    unfold serveTokens
    split
    · split
      · rfl
      · split <;> simp_all
    · rfl
@[simp] theorem serveTokens_idleMilliseconds (n : Nat) (s : State) : (serveTokens n s).idleMilliseconds = s.idleMilliseconds := by
  induction n generalizing s with
  | zero => rfl
  | succ n ih =>
    unfold serveTokens
    split
    · split
      · rfl
      · split <;> simp_all
    · rfl

/-! A CARRY going on touches the store, the digest list and the link (R155). -/

@[simp] theorem carryGoOn_pending (c : CarryService) (s : State) : (carryGoOn c s).pending = s.pending := by
  unfold carryGoOn; split <;> simp [requestItemCheck]
@[simp] theorem carryGoOn_provisioning (c : CarryService) (s : State) : (carryGoOn c s).provisioning = s.provisioning := by
  unfold carryGoOn; split <;> simp [requestItemCheck]
@[simp] theorem carryGoOn_flash (c : CarryService) (s : State) : (carryGoOn c s).flash = s.flash := by
  unfold carryGoOn; split <;> simp [requestItemCheck]
@[simp] theorem carryGoOn_domain (c : CarryService) (s : State) : (carryGoOn c s).domain = s.domain := by
  unfold carryGoOn; split <;> simp [requestItemCheck]
@[simp] theorem carryGoOn_account (c : CarryService) (s : State) : (carryGoOn c s).account = s.account := by
  unfold carryGoOn; split <;> simp [requestItemCheck]
@[simp] theorem carryGoOn_tokens (c : CarryService) (s : State) : (carryGoOn c s).tokens = s.tokens := by
  unfold carryGoOn; split <;> simp [requestItemCheck]
@[simp] theorem carryGoOn_meter (c : CarryService) (s : State) : (carryGoOn c s).meter = s.meter := by
  unfold carryGoOn; split <;> simp [requestItemCheck]
@[simp] theorem carryGoOn_switches (c : CarryService) (s : State) : (carryGoOn c s).switches = s.switches := by
  unfold carryGoOn; split <;> simp [requestItemCheck]
@[simp] theorem carryGoOn_supply (c : CarryService) (s : State) : (carryGoOn c s).supply = s.supply := by
  unfold carryGoOn; split <;> simp [requestItemCheck]
@[simp] theorem carryGoOn_journal (c : CarryService) (s : State) : (carryGoOn c s).journal = s.journal := by
  unfold carryGoOn; split <;> simp [requestItemCheck]
@[simp] theorem carryGoOn_idleMilliseconds (c : CarryService) (s : State) : (carryGoOn c s).idleMilliseconds = s.idleMilliseconds := by
  unfold carryGoOn; split <;> simp [requestItemCheck]

/-! Taking a request of the store touches the store, the digest list and the link (R154). -/

@[simp] theorem takeStoreRequest_pending (q : Request) (s : State) : (takeStoreRequest q s).pending = s.pending := by
  unfold takeStoreRequest
  split
  · unfold takeCarry; split <;> simp
  · unfold takeHandoff; split <;> simp
  · unfold takeReceipts; split <;> simp
@[simp] theorem takeStoreRequest_provisioning (q : Request) (s : State) : (takeStoreRequest q s).provisioning = s.provisioning := by
  unfold takeStoreRequest
  split
  · unfold takeCarry; split <;> simp
  · unfold takeHandoff; split <;> simp
  · unfold takeReceipts; split <;> simp
@[simp] theorem takeStoreRequest_flash (q : Request) (s : State) : (takeStoreRequest q s).flash = s.flash := by
  unfold takeStoreRequest
  split
  · unfold takeCarry; split <;> simp
  · unfold takeHandoff; split <;> simp
  · unfold takeReceipts; split <;> simp
@[simp] theorem takeStoreRequest_domain (q : Request) (s : State) : (takeStoreRequest q s).domain = s.domain := by
  unfold takeStoreRequest
  split
  · unfold takeCarry; split <;> simp
  · unfold takeHandoff; split <;> simp
  · unfold takeReceipts; split <;> simp
@[simp] theorem takeStoreRequest_account (q : Request) (s : State) : (takeStoreRequest q s).account = s.account := by
  unfold takeStoreRequest
  split
  · unfold takeCarry; split <;> simp
  · unfold takeHandoff; split <;> simp
  · unfold takeReceipts; split <;> simp
@[simp] theorem takeStoreRequest_tokens (q : Request) (s : State) : (takeStoreRequest q s).tokens = s.tokens := by
  unfold takeStoreRequest
  split
  · unfold takeCarry; split <;> simp
  · unfold takeHandoff; split <;> simp
  · unfold takeReceipts; split <;> simp
@[simp] theorem takeStoreRequest_meter (q : Request) (s : State) : (takeStoreRequest q s).meter = s.meter := by
  unfold takeStoreRequest
  split
  · unfold takeCarry; split <;> simp
  · unfold takeHandoff; split <;> simp
  · unfold takeReceipts; split <;> simp
@[simp] theorem takeStoreRequest_switches (q : Request) (s : State) : (takeStoreRequest q s).switches = s.switches := by
  unfold takeStoreRequest
  split
  · unfold takeCarry; split <;> simp
  · unfold takeHandoff; split <;> simp
  · unfold takeReceipts; split <;> simp
@[simp] theorem takeStoreRequest_supply (q : Request) (s : State) : (takeStoreRequest q s).supply = s.supply := by
  unfold takeStoreRequest
  split
  · unfold takeCarry; split <;> simp
  · unfold takeHandoff; split <;> simp
  · unfold takeReceipts; split <;> simp
@[simp] theorem takeStoreRequest_journal (q : Request) (s : State) : (takeStoreRequest q s).journal = s.journal := by
  unfold takeStoreRequest
  split
  · unfold takeCarry; split <;> simp
  · unfold takeHandoff; split <;> simp
  · unfold takeReceipts; split <;> simp
@[simp] theorem takeStoreRequest_idleMilliseconds (q : Request) (s : State) : (takeStoreRequest q s).idleMilliseconds = s.idleMilliseconds := by
  unfold takeStoreRequest
  split
  · unfold takeCarry; split <;> simp
  · unfold takeHandoff; split <;> simp
  · unfold takeReceipts; split <;> simp

/-! Taking the store's waiting requests. -/

@[simp] theorem serveStore_pending (n : Nat) (s : State) : (serveStore n s).pending = s.pending := by
  induction n generalizing s with
  | zero => rfl
  | succ n ih =>
    unfold serveStore
    split
    · split
      · rfl
      · simp_all
    · rfl
@[simp] theorem serveStore_provisioning (n : Nat) (s : State) : (serveStore n s).provisioning = s.provisioning := by
  induction n generalizing s with
  | zero => rfl
  | succ n ih =>
    unfold serveStore
    split
    · split
      · rfl
      · simp_all
    · rfl
@[simp] theorem serveStore_flash (n : Nat) (s : State) : (serveStore n s).flash = s.flash := by
  induction n generalizing s with
  | zero => rfl
  | succ n ih =>
    unfold serveStore
    split
    · split
      · rfl
      · simp_all
    · rfl
@[simp] theorem serveStore_domain (n : Nat) (s : State) : (serveStore n s).domain = s.domain := by
  induction n generalizing s with
  | zero => rfl
  | succ n ih =>
    unfold serveStore
    split
    · split
      · rfl
      · simp_all
    · rfl
@[simp] theorem serveStore_account (n : Nat) (s : State) : (serveStore n s).account = s.account := by
  induction n generalizing s with
  | zero => rfl
  | succ n ih =>
    unfold serveStore
    split
    · split
      · rfl
      · simp_all
    · rfl
@[simp] theorem serveStore_tokens (n : Nat) (s : State) : (serveStore n s).tokens = s.tokens := by
  induction n generalizing s with
  | zero => rfl
  | succ n ih =>
    unfold serveStore
    split
    · split
      · rfl
      · simp_all
    · rfl
@[simp] theorem serveStore_meter (n : Nat) (s : State) : (serveStore n s).meter = s.meter := by
  induction n generalizing s with
  | zero => rfl
  | succ n ih =>
    unfold serveStore
    split
    · split
      · rfl
      · simp_all
    · rfl
@[simp] theorem serveStore_switches (n : Nat) (s : State) : (serveStore n s).switches = s.switches := by
  induction n generalizing s with
  | zero => rfl
  | succ n ih =>
    unfold serveStore
    split
    · split
      · rfl
      · simp_all
    · rfl
@[simp] theorem serveStore_supply (n : Nat) (s : State) : (serveStore n s).supply = s.supply := by
  induction n generalizing s with
  | zero => rfl
  | succ n ih =>
    unfold serveStore
    split
    · split
      · rfl
      · simp_all
    · rfl
@[simp] theorem serveStore_journal (n : Nat) (s : State) : (serveStore n s).journal = s.journal := by
  induction n generalizing s with
  | zero => rfl
  | succ n ih =>
    unfold serveStore
    split
    · split
      · rfl
      · simp_all
    · rfl
@[simp] theorem serveStore_idleMilliseconds (n : Nat) (s : State) : (serveStore n s).idleMilliseconds = s.idleMilliseconds := by
  induction n generalizing s with
  | zero => rfl
  | succ n ih =>
    unfold serveStore
    split
    · split
      · rfl
      · simp_all
    · rfl

/-! The journal's next operation touches the journal alone (R135). -/

@[simp] theorem journalGoOn_pending (s : State) : (journalGoOn s).pending = s.pending := by
  unfold journalGoOn
  split
  · rfl
  · split
    · rfl
    · split <;> rfl
@[simp] theorem journalGoOn_provisioning (s : State) : (journalGoOn s).provisioning = s.provisioning := by
  unfold journalGoOn
  split
  · rfl
  · split
    · rfl
    · split <;> rfl
@[simp] theorem journalGoOn_flash (s : State) : (journalGoOn s).flash = s.flash := by
  unfold journalGoOn
  split
  · rfl
  · split
    · rfl
    · split <;> rfl
@[simp] theorem journalGoOn_domain (s : State) : (journalGoOn s).domain = s.domain := by
  unfold journalGoOn
  split
  · rfl
  · split
    · rfl
    · split <;> rfl
@[simp] theorem journalGoOn_account (s : State) : (journalGoOn s).account = s.account := by
  unfold journalGoOn
  split
  · rfl
  · split
    · rfl
    · split <;> rfl
@[simp] theorem journalGoOn_tokens (s : State) : (journalGoOn s).tokens = s.tokens := by
  unfold journalGoOn
  split
  · rfl
  · split
    · rfl
    · split <;> rfl
@[simp] theorem journalGoOn_digests (s : State) : (journalGoOn s).digests = s.digests := by
  unfold journalGoOn
  split
  · rfl
  · split
    · rfl
    · split <;> rfl
@[simp] theorem journalGoOn_meter (s : State) : (journalGoOn s).meter = s.meter := by
  unfold journalGoOn
  split
  · rfl
  · split
    · rfl
    · split <;> rfl
@[simp] theorem journalGoOn_switches (s : State) : (journalGoOn s).switches = s.switches := by
  unfold journalGoOn
  split
  · rfl
  · split
    · rfl
    · split <;> rfl
@[simp] theorem journalGoOn_supply (s : State) : (journalGoOn s).supply = s.supply := by
  unfold journalGoOn
  split
  · rfl
  · split
    · rfl
    · split <;> rfl
@[simp] theorem journalGoOn_relay (s : State) : (journalGoOn s).relay = s.relay := by
  unfold journalGoOn
  split
  · rfl
  · split
    · rfl
    · split <;> rfl
@[simp] theorem journalGoOn_link (s : State) : (journalGoOn s).link = s.link := by
  unfold journalGoOn
  split
  · rfl
  · split
    · rfl
    · split <;> rfl
@[simp] theorem journalGoOn_idleMilliseconds (s : State) : (journalGoOn s).idleMilliseconds = s.idleMilliseconds := by
  unfold journalGoOn
  split
  · rfl
  · split
    · rfl
    · split <;> rfl

/-! The units' settling. -/

@[simp] theorem settleUnits_pending (o : DigestOrder) (s : State) : (settleUnits o s).pending = s.pending := by
  cases o <;> simp [settleUnits, settleStore, settleTokens]
@[simp] theorem settleUnits_provisioning (o : DigestOrder) (s : State) : (settleUnits o s).provisioning = s.provisioning := by
  cases o <;> simp [settleUnits, settleStore, settleTokens]
@[simp] theorem settleUnits_flash (o : DigestOrder) (s : State) : (settleUnits o s).flash = s.flash := by
  cases o <;> simp [settleUnits, settleStore, settleTokens]
@[simp] theorem settleUnits_domain (o : DigestOrder) (s : State) : (settleUnits o s).domain = s.domain := by
  cases o <;> simp [settleUnits, settleStore, settleTokens]
@[simp] theorem settleUnits_account (o : DigestOrder) (s : State) : (settleUnits o s).account = s.account := by
  cases o <;> simp [settleUnits, settleStore, settleTokens]
@[simp] theorem settleUnits_meter (o : DigestOrder) (s : State) : (settleUnits o s).meter = s.meter := by
  cases o <;> simp [settleUnits, settleStore, settleTokens]
@[simp] theorem settleUnits_switches (o : DigestOrder) (s : State) : (settleUnits o s).switches = s.switches := by
  cases o <;> simp [settleUnits, settleStore, settleTokens]
@[simp] theorem settleUnits_supply (o : DigestOrder) (s : State) : (settleUnits o s).supply = s.supply := by
  cases o <;> simp [settleUnits, settleStore, settleTokens]
@[simp] theorem settleUnits_journal (o : DigestOrder) (s : State) : (settleUnits o s).journal = s.journal := by
  cases o <;> simp [settleUnits, settleStore, settleTokens]
@[simp] theorem settleUnits_idleMilliseconds (o : DigestOrder) (s : State) : (settleUnits o s).idleMilliseconds = s.idleMilliseconds := by
  cases o <;> simp [settleUnits, settleStore, settleTokens]

/-! The end of an event leaves the record, the flash, the clock domain, the account, the meter, the switches, the
monitor and the queue. -/

@[simp] theorem finish_pending (o : DigestOrder) (s : State) : (finish o s).pending = s.pending := by
  simp [finish]
@[simp] theorem finish_provisioning (o : DigestOrder) (s : State) : (finish o s).provisioning = s.provisioning := by
  simp [finish]
@[simp] theorem finish_flash (o : DigestOrder) (s : State) : (finish o s).flash = s.flash := by
  simp [finish]
@[simp] theorem finish_domain (o : DigestOrder) (s : State) : (finish o s).domain = s.domain := by
  simp [finish]
@[simp] theorem finish_account (o : DigestOrder) (s : State) : (finish o s).account = s.account := by
  simp [finish]
@[simp] theorem finish_meter (o : DigestOrder) (s : State) : (finish o s).meter = s.meter := by
  simp [finish]
@[simp] theorem finish_switches (o : DigestOrder) (s : State) : (finish o s).switches = s.switches := by
  simp [finish]
@[simp] theorem finish_supply (o : DigestOrder) (s : State) : (finish o s).supply = s.supply := by
  simp [finish]
@[simp] theorem finish_idleMilliseconds (o : DigestOrder) (s : State) : (finish o s).idleMilliseconds = s.idleMilliseconds := by
  simp [finish]

/-! New values of the account touch the account, the caps and the notices (R24, R25). -/

@[simp] theorem takeCharged_pending (c : Charged) (s : State) : (takeCharged c s).pending = s.pending := by
  simp [takeCharged]
@[simp] theorem takeCharged_provisioning (c : Charged) (s : State) : (takeCharged c s).provisioning = s.provisioning := by
  simp [takeCharged]
@[simp] theorem takeCharged_flash (c : Charged) (s : State) : (takeCharged c s).flash = s.flash := by
  simp [takeCharged]
@[simp] theorem takeCharged_domain (c : Charged) (s : State) : (takeCharged c s).domain = s.domain := by
  simp [takeCharged]
@[simp] theorem takeCharged_tokens (c : Charged) (s : State) : (takeCharged c s).tokens = s.tokens := by
  simp [takeCharged]
@[simp] theorem takeCharged_digests (c : Charged) (s : State) : (takeCharged c s).digests = s.digests := by
  simp [takeCharged]
@[simp] theorem takeCharged_meter (c : Charged) (s : State) : (takeCharged c s).meter = s.meter := by
  simp [takeCharged]
@[simp] theorem takeCharged_supply (c : Charged) (s : State) : (takeCharged c s).supply = s.supply := by
  simp [takeCharged]
@[simp] theorem takeCharged_journal (c : Charged) (s : State) : (takeCharged c s).journal = s.journal := by
  simp [takeCharged]
@[simp] theorem takeCharged_relay (c : Charged) (s : State) : (takeCharged c s).relay = s.relay := by
  simp [takeCharged]
@[simp] theorem takeCharged_idleMilliseconds (c : Charged) (s : State) : (takeCharged c s).idleMilliseconds = s.idleMilliseconds := by
  simp [takeCharged]

/-! A tally touches the account, the caps, the notices and the write queue (R6, R14). -/

@[simp] theorem performTally_pending (p : ClockTime) (s : State) : (performTally p s).pending = s.pending := by
  unfold performTally; dsimp only; split <;> simp
@[simp] theorem performTally_provisioning (p : ClockTime) (s : State) : (performTally p s).provisioning = s.provisioning := by
  unfold performTally; dsimp only; split <;> simp
@[simp] theorem performTally_flash (p : ClockTime) (s : State) : (performTally p s).flash = s.flash := by
  unfold performTally; dsimp only; split <;> simp
@[simp] theorem performTally_domain (p : ClockTime) (s : State) : (performTally p s).domain = s.domain := by
  unfold performTally; dsimp only; split <;> simp
@[simp] theorem performTally_tokens (p : ClockTime) (s : State) : (performTally p s).tokens = s.tokens := by
  unfold performTally; dsimp only; split <;> simp
@[simp] theorem performTally_digests (p : ClockTime) (s : State) : (performTally p s).digests = s.digests := by
  unfold performTally; dsimp only; split <;> simp
@[simp] theorem performTally_meter (p : ClockTime) (s : State) : (performTally p s).meter = s.meter := by
  unfold performTally; dsimp only; split <;> simp
@[simp] theorem performTally_supply (p : ClockTime) (s : State) : (performTally p s).supply = s.supply := by
  unfold performTally; dsimp only; split <;> simp
@[simp] theorem performTally_relay (p : ClockTime) (s : State) : (performTally p s).relay = s.relay := by
  unfold performTally; dsimp only; split <;> simp
@[simp] theorem performTally_idleMilliseconds (p : ClockTime) (s : State) : (performTally p s).idleMilliseconds = s.idleMilliseconds := by
  unfold performTally; dsimp only; split <;> simp

/-! A tally point touches what a tally touches (R6, R21). -/

@[simp] theorem takeTallyPoint_pending (p : ClockTime) (s : State) : (takeTallyPoint p s).pending = s.pending := by
  unfold takeTallyPoint; split
  · split <;> simp
  · rfl
@[simp] theorem takeTallyPoint_provisioning (p : ClockTime) (s : State) : (takeTallyPoint p s).provisioning = s.provisioning := by
  unfold takeTallyPoint; split
  · split <;> simp
  · rfl
@[simp] theorem takeTallyPoint_flash (p : ClockTime) (s : State) : (takeTallyPoint p s).flash = s.flash := by
  unfold takeTallyPoint; split
  · split <;> simp
  · rfl
@[simp] theorem takeTallyPoint_domain (p : ClockTime) (s : State) : (takeTallyPoint p s).domain = s.domain := by
  unfold takeTallyPoint; split
  · split <;> simp
  · rfl
@[simp] theorem takeTallyPoint_tokens (p : ClockTime) (s : State) : (takeTallyPoint p s).tokens = s.tokens := by
  unfold takeTallyPoint; split
  · split <;> simp
  · rfl
@[simp] theorem takeTallyPoint_digests (p : ClockTime) (s : State) : (takeTallyPoint p s).digests = s.digests := by
  unfold takeTallyPoint; split
  · split <;> simp
  · rfl
@[simp] theorem takeTallyPoint_meter (p : ClockTime) (s : State) : (takeTallyPoint p s).meter = s.meter := by
  unfold takeTallyPoint; split
  · split <;> simp
  · rfl
@[simp] theorem takeTallyPoint_supply (p : ClockTime) (s : State) : (takeTallyPoint p s).supply = s.supply := by
  unfold takeTallyPoint; split
  · split <;> simp
  · rfl
@[simp] theorem takeTallyPoint_relay (p : ClockTime) (s : State) : (takeTallyPoint p s).relay = s.relay := by
  unfold takeTallyPoint; split
  · split <;> simp
  · rfl
@[simp] theorem takeTallyPoint_idleMilliseconds (p : ClockTime) (s : State) : (takeTallyPoint p s).idleMilliseconds = s.idleMilliseconds := by
  unfold takeTallyPoint; split
  · split <;> simp
  · rfl

/-! The release of the pin touches what a tally touches (R22). -/

@[simp] theorem releasePin_pending (s : State) : (releasePin s).pending = s.pending := by
  unfold releasePin; dsimp only; split
  · rfl
  · split <;> simp
@[simp] theorem releasePin_provisioning (s : State) : (releasePin s).provisioning = s.provisioning := by
  unfold releasePin; dsimp only; split
  · rfl
  · split <;> simp
@[simp] theorem releasePin_flash (s : State) : (releasePin s).flash = s.flash := by
  unfold releasePin; dsimp only; split
  · rfl
  · split <;> simp
@[simp] theorem releasePin_domain (s : State) : (releasePin s).domain = s.domain := by
  unfold releasePin; dsimp only; split
  · rfl
  · split <;> simp
@[simp] theorem releasePin_tokens (s : State) : (releasePin s).tokens = s.tokens := by
  unfold releasePin; dsimp only; split
  · rfl
  · split <;> simp
@[simp] theorem releasePin_digests (s : State) : (releasePin s).digests = s.digests := by
  unfold releasePin; dsimp only; split
  · rfl
  · split <;> simp
@[simp] theorem releasePin_meter (s : State) : (releasePin s).meter = s.meter := by
  unfold releasePin; dsimp only; split
  · rfl
  · split <;> simp
@[simp] theorem releasePin_supply (s : State) : (releasePin s).supply = s.supply := by
  unfold releasePin; dsimp only; split
  · rfl
  · split <;> simp
@[simp] theorem releasePin_relay (s : State) : (releasePin s).relay = s.relay := by
  unfold releasePin; dsimp only; split
  · rfl
  · split <;> simp
@[simp] theorem releasePin_idleMilliseconds (s : State) : (releasePin s).idleMilliseconds = s.idleMilliseconds := by
  unfold releasePin; dsimp only; split
  · rfl
  · split <;> simp

/-! A minute arrival touches the clock, the relay lists and what a tally touches (R74, R75). -/

@[simp] theorem minuteArrives_pending (s : State) : (minuteArrives s).pending = s.pending := by
  unfold minuteArrives; dsimp only; split <;> split <;> simp
@[simp] theorem minuteArrives_provisioning (s : State) : (minuteArrives s).provisioning = s.provisioning := by
  unfold minuteArrives; dsimp only; split <;> split <;> simp
@[simp] theorem minuteArrives_flash (s : State) : (minuteArrives s).flash = s.flash := by
  unfold minuteArrives; dsimp only; split <;> split <;> simp
@[simp] theorem minuteArrives_tokens (s : State) : (minuteArrives s).tokens = s.tokens := by
  unfold minuteArrives; dsimp only; split <;> split <;> simp
@[simp] theorem minuteArrives_digests (s : State) : (minuteArrives s).digests = s.digests := by
  unfold minuteArrives; dsimp only; split <;> split <;> simp
@[simp] theorem minuteArrives_meter (s : State) : (minuteArrives s).meter = s.meter := by
  unfold minuteArrives; dsimp only; split <;> split <;> simp
@[simp] theorem minuteArrives_supply (s : State) : (minuteArrives s).supply = s.supply := by
  unfold minuteArrives; dsimp only; split <;> split <;> simp
@[simp] theorem minuteArrives_idleMilliseconds (s : State) : (minuteArrives s).idleMilliseconds = s.idleMilliseconds := by
  unfold minuteArrives; dsimp only; split <;> split <;> simp

/-! A minute arrival when one is due. -/

@[simp] theorem minuteIf_pending (b : Bool) (s : State) : (minuteIf b s).pending = s.pending := by
  unfold minuteIf; split <;> simp
@[simp] theorem minuteIf_provisioning (b : Bool) (s : State) : (minuteIf b s).provisioning = s.provisioning := by
  unfold minuteIf; split <;> simp
@[simp] theorem minuteIf_flash (b : Bool) (s : State) : (minuteIf b s).flash = s.flash := by
  unfold minuteIf; split <;> simp
@[simp] theorem minuteIf_tokens (b : Bool) (s : State) : (minuteIf b s).tokens = s.tokens := by
  unfold minuteIf; split <;> simp
@[simp] theorem minuteIf_digests (b : Bool) (s : State) : (minuteIf b s).digests = s.digests := by
  unfold minuteIf; split <;> simp
@[simp] theorem minuteIf_meter (b : Bool) (s : State) : (minuteIf b s).meter = s.meter := by
  unfold minuteIf; split <;> simp
@[simp] theorem minuteIf_supply (b : Bool) (s : State) : (minuteIf b s).supply = s.supply := by
  unfold minuteIf; split <;> simp
@[simp] theorem minuteIf_idleMilliseconds (b : Bool) (s : State) : (minuteIf b s).idleMilliseconds = s.idleMilliseconds := by
  unfold minuteIf; split <;> simp

/-! The second touches the clock domain alone (R73, R67). -/

@[simp] theorem advanceSecond_pending (s : State) : (advanceSecond s).pending = s.pending := by
  rfl
@[simp] theorem advanceSecond_provisioning (s : State) : (advanceSecond s).provisioning = s.provisioning := by
  rfl
@[simp] theorem advanceSecond_flash (s : State) : (advanceSecond s).flash = s.flash := by
  rfl
@[simp] theorem advanceSecond_account (s : State) : (advanceSecond s).account = s.account := by
  rfl
@[simp] theorem advanceSecond_tokens (s : State) : (advanceSecond s).tokens = s.tokens := by
  rfl
@[simp] theorem advanceSecond_digests (s : State) : (advanceSecond s).digests = s.digests := by
  rfl
@[simp] theorem advanceSecond_meter (s : State) : (advanceSecond s).meter = s.meter := by
  rfl
@[simp] theorem advanceSecond_switches (s : State) : (advanceSecond s).switches = s.switches := by
  rfl
@[simp] theorem advanceSecond_supply (s : State) : (advanceSecond s).supply = s.supply := by
  rfl
@[simp] theorem advanceSecond_journal (s : State) : (advanceSecond s).journal = s.journal := by
  rfl
@[simp] theorem advanceSecond_relay (s : State) : (advanceSecond s).relay = s.relay := by
  rfl
@[simp] theorem advanceSecond_link (s : State) : (advanceSecond s).link = s.link := by
  rfl
@[simp] theorem advanceSecond_idleMilliseconds (s : State) : (advanceSecond s).idleMilliseconds = s.idleMilliseconds := by
  rfl

/-! The backup measurement touches the clock domain and the notices (R122). -/

@[simp] theorem measureBackup_pending (m : Nat) (s : State) : (measureBackup m s).pending = s.pending := by
  simp [measureBackup]
@[simp] theorem measureBackup_provisioning (m : Nat) (s : State) : (measureBackup m s).provisioning = s.provisioning := by
  simp [measureBackup]
@[simp] theorem measureBackup_flash (m : Nat) (s : State) : (measureBackup m s).flash = s.flash := by
  simp [measureBackup]
@[simp] theorem measureBackup_account (m : Nat) (s : State) : (measureBackup m s).account = s.account := by
  simp [measureBackup]
@[simp] theorem measureBackup_tokens (m : Nat) (s : State) : (measureBackup m s).tokens = s.tokens := by
  simp [measureBackup]
@[simp] theorem measureBackup_digests (m : Nat) (s : State) : (measureBackup m s).digests = s.digests := by
  simp [measureBackup]
@[simp] theorem measureBackup_meter (m : Nat) (s : State) : (measureBackup m s).meter = s.meter := by
  simp [measureBackup]
@[simp] theorem measureBackup_switches (m : Nat) (s : State) : (measureBackup m s).switches = s.switches := by
  simp [measureBackup]
@[simp] theorem measureBackup_supply (m : Nat) (s : State) : (measureBackup m s).supply = s.supply := by
  simp [measureBackup]
@[simp] theorem measureBackup_journal (m : Nat) (s : State) : (measureBackup m s).journal = s.journal := by
  simp [measureBackup]
@[simp] theorem measureBackup_relay (m : Nat) (s : State) : (measureBackup m s).relay = s.relay := by
  simp [measureBackup]
@[simp] theorem measureBackup_idleMilliseconds (m : Nat) (s : State) : (measureBackup m s).idleMilliseconds = s.idleMilliseconds := by
  simp [measureBackup]

/-! Handing over the driven answers touches the switches alone (R110). -/

@[simp] theorem reportDriven_pending (s : State) : (reportDriven s).pending = s.pending := by
  simp [reportDriven]
@[simp] theorem reportDriven_provisioning (s : State) : (reportDriven s).provisioning = s.provisioning := by
  simp [reportDriven]
@[simp] theorem reportDriven_flash (s : State) : (reportDriven s).flash = s.flash := by
  simp [reportDriven]
@[simp] theorem reportDriven_domain (s : State) : (reportDriven s).domain = s.domain := by
  simp [reportDriven]
@[simp] theorem reportDriven_account (s : State) : (reportDriven s).account = s.account := by
  simp [reportDriven]
@[simp] theorem reportDriven_tokens (s : State) : (reportDriven s).tokens = s.tokens := by
  simp [reportDriven]
@[simp] theorem reportDriven_digests (s : State) : (reportDriven s).digests = s.digests := by
  simp [reportDriven]
@[simp] theorem reportDriven_meter (s : State) : (reportDriven s).meter = s.meter := by
  simp [reportDriven]
@[simp] theorem reportDriven_supply (s : State) : (reportDriven s).supply = s.supply := by
  simp [reportDriven]
@[simp] theorem reportDriven_journal (s : State) : (reportDriven s).journal = s.journal := by
  simp [reportDriven]
@[simp] theorem reportDriven_relay (s : State) : (reportDriven s).relay = s.relay := by
  simp [reportDriven]
@[simp] theorem reportDriven_link (s : State) : (reportDriven s).link = s.link := by
  simp [reportDriven]
@[simp] theorem reportDriven_idleMilliseconds (s : State) : (reportDriven s).idleMilliseconds = s.idleMilliseconds := by
  simp [reportDriven]

/-! A sample touches the meter and the notices (R91, R99). -/

@[simp] theorem takeSample_pending (v : Nat) (c : PerPort Nat) (s : State) : (takeSample v c s).pending = s.pending := by
  unfold takeSample; split <;> simp
@[simp] theorem takeSample_provisioning (v : Nat) (c : PerPort Nat) (s : State) : (takeSample v c s).provisioning = s.provisioning := by
  unfold takeSample; split <;> simp
@[simp] theorem takeSample_flash (v : Nat) (c : PerPort Nat) (s : State) : (takeSample v c s).flash = s.flash := by
  unfold takeSample; split <;> simp
@[simp] theorem takeSample_domain (v : Nat) (c : PerPort Nat) (s : State) : (takeSample v c s).domain = s.domain := by
  unfold takeSample; split <;> simp
@[simp] theorem takeSample_account (v : Nat) (c : PerPort Nat) (s : State) : (takeSample v c s).account = s.account := by
  unfold takeSample; split <;> simp
@[simp] theorem takeSample_tokens (v : Nat) (c : PerPort Nat) (s : State) : (takeSample v c s).tokens = s.tokens := by
  unfold takeSample; split <;> simp
@[simp] theorem takeSample_digests (v : Nat) (c : PerPort Nat) (s : State) : (takeSample v c s).digests = s.digests := by
  unfold takeSample; split <;> simp
@[simp] theorem takeSample_switches (v : Nat) (c : PerPort Nat) (s : State) : (takeSample v c s).switches = s.switches := by
  unfold takeSample; split <;> simp
@[simp] theorem takeSample_supply (v : Nat) (c : PerPort Nat) (s : State) : (takeSample v c s).supply = s.supply := by
  unfold takeSample; split <;> simp
@[simp] theorem takeSample_journal (v : Nat) (c : PerPort Nat) (s : State) : (takeSample v c s).journal = s.journal := by
  unfold takeSample; split <;> simp
@[simp] theorem takeSample_relay (v : Nat) (c : PerPort Nat) (s : State) : (takeSample v c s).relay = s.relay := by
  unfold takeSample; split <;> simp
@[simp] theorem takeSample_idleMilliseconds (v : Nat) (c : PerPort Nat) (s : State) : (takeSample v c s).idleMilliseconds = s.idleMilliseconds := by
  unfold takeSample; split <;> simp

/-! Requesting an own receipt touches the digest list alone (R65). -/

@[simp] theorem requestReceipt_pending (n : Nat) (s : State) : (requestReceipt n s).pending = s.pending := by
  simp [requestReceipt]
@[simp] theorem requestReceipt_provisioning (n : Nat) (s : State) : (requestReceipt n s).provisioning = s.provisioning := by
  simp [requestReceipt]
@[simp] theorem requestReceipt_flash (n : Nat) (s : State) : (requestReceipt n s).flash = s.flash := by
  simp [requestReceipt]
@[simp] theorem requestReceipt_domain (n : Nat) (s : State) : (requestReceipt n s).domain = s.domain := by
  simp [requestReceipt]
@[simp] theorem requestReceipt_account (n : Nat) (s : State) : (requestReceipt n s).account = s.account := by
  simp [requestReceipt]
@[simp] theorem requestReceipt_tokens (n : Nat) (s : State) : (requestReceipt n s).tokens = s.tokens := by
  simp [requestReceipt]
@[simp] theorem requestReceipt_meter (n : Nat) (s : State) : (requestReceipt n s).meter = s.meter := by
  simp [requestReceipt]
@[simp] theorem requestReceipt_switches (n : Nat) (s : State) : (requestReceipt n s).switches = s.switches := by
  simp [requestReceipt]
@[simp] theorem requestReceipt_supply (n : Nat) (s : State) : (requestReceipt n s).supply = s.supply := by
  simp [requestReceipt]
@[simp] theorem requestReceipt_journal (n : Nat) (s : State) : (requestReceipt n s).journal = s.journal := by
  simp [requestReceipt]
@[simp] theorem requestReceipt_relay (n : Nat) (s : State) : (requestReceipt n s).relay = s.relay := by
  simp [requestReceipt]
@[simp] theorem requestReceipt_link (n : Nat) (s : State) : (requestReceipt n s).link = s.link := by
  simp [requestReceipt]
@[simp] theorem requestReceipt_idleMilliseconds (n : Nat) (s : State) : (requestReceipt n s).idleMilliseconds = s.idleMilliseconds := by
  simp [requestReceipt]

/-! The notices of a commit touch the link alone (R25, R33). -/

@[simp] theorem commitNotices_pending (a : AccountState) (t : TokenEntry) (s : State) : (commitNotices a t s).pending = s.pending := by
  simp [commitNotices]
@[simp] theorem commitNotices_provisioning (a : AccountState) (t : TokenEntry) (s : State) : (commitNotices a t s).provisioning = s.provisioning := by
  simp [commitNotices]
@[simp] theorem commitNotices_flash (a : AccountState) (t : TokenEntry) (s : State) : (commitNotices a t s).flash = s.flash := by
  simp [commitNotices]
@[simp] theorem commitNotices_domain (a : AccountState) (t : TokenEntry) (s : State) : (commitNotices a t s).domain = s.domain := by
  simp [commitNotices]
@[simp] theorem commitNotices_account (a : AccountState) (t : TokenEntry) (s : State) : (commitNotices a t s).account = s.account := by
  simp [commitNotices]
@[simp] theorem commitNotices_tokens (a : AccountState) (t : TokenEntry) (s : State) : (commitNotices a t s).tokens = s.tokens := by
  simp [commitNotices]
@[simp] theorem commitNotices_digests (a : AccountState) (t : TokenEntry) (s : State) : (commitNotices a t s).digests = s.digests := by
  simp [commitNotices]
@[simp] theorem commitNotices_meter (a : AccountState) (t : TokenEntry) (s : State) : (commitNotices a t s).meter = s.meter := by
  simp [commitNotices]
@[simp] theorem commitNotices_switches (a : AccountState) (t : TokenEntry) (s : State) : (commitNotices a t s).switches = s.switches := by
  simp [commitNotices]
@[simp] theorem commitNotices_supply (a : AccountState) (t : TokenEntry) (s : State) : (commitNotices a t s).supply = s.supply := by
  simp [commitNotices]
@[simp] theorem commitNotices_journal (a : AccountState) (t : TokenEntry) (s : State) : (commitNotices a t s).journal = s.journal := by
  simp [commitNotices]
@[simp] theorem commitNotices_relay (a : AccountState) (t : TokenEntry) (s : State) : (commitNotices a t s).relay = s.relay := by
  simp [commitNotices]
@[simp] theorem commitNotices_idleMilliseconds (a : AccountState) (t : TokenEntry) (s : State) : (commitNotices a t s).idleMilliseconds = s.idleMilliseconds := by
  simp [commitNotices]

/-! Delivering ACCEPTED touches the Token Unit, the digest list and the link (R63, R65). -/

@[simp] theorem deliverAccepted_pending (t : TokenEntry) (s : State) : (deliverAccepted t s).pending = s.pending := by
  simp [deliverAccepted]
@[simp] theorem deliverAccepted_provisioning (t : TokenEntry) (s : State) : (deliverAccepted t s).provisioning = s.provisioning := by
  simp [deliverAccepted]
@[simp] theorem deliverAccepted_flash (t : TokenEntry) (s : State) : (deliverAccepted t s).flash = s.flash := by
  simp [deliverAccepted]
@[simp] theorem deliverAccepted_domain (t : TokenEntry) (s : State) : (deliverAccepted t s).domain = s.domain := by
  simp [deliverAccepted]
@[simp] theorem deliverAccepted_account (t : TokenEntry) (s : State) : (deliverAccepted t s).account = s.account := by
  simp [deliverAccepted]
@[simp] theorem deliverAccepted_meter (t : TokenEntry) (s : State) : (deliverAccepted t s).meter = s.meter := by
  simp [deliverAccepted]
@[simp] theorem deliverAccepted_switches (t : TokenEntry) (s : State) : (deliverAccepted t s).switches = s.switches := by
  simp [deliverAccepted]
@[simp] theorem deliverAccepted_supply (t : TokenEntry) (s : State) : (deliverAccepted t s).supply = s.supply := by
  simp [deliverAccepted]
@[simp] theorem deliverAccepted_journal (t : TokenEntry) (s : State) : (deliverAccepted t s).journal = s.journal := by
  simp [deliverAccepted]
@[simp] theorem deliverAccepted_relay (t : TokenEntry) (s : State) : (deliverAccepted t s).relay = s.relay := by
  simp [deliverAccepted]
@[simp] theorem deliverAccepted_idleMilliseconds (t : TokenEntry) (s : State) : (deliverAccepted t s).idleMilliseconds = s.idleMilliseconds := by
  simp [deliverAccepted]

/-! Answering the PROVISION touches the record block and the link (R177). -/

@[simp] theorem answerProvision_pending (b : List Byte) (s : State) : (answerProvision b s).pending = s.pending := by
  unfold answerProvision; split <;> simp
@[simp] theorem answerProvision_flash (b : List Byte) (s : State) : (answerProvision b s).flash = s.flash := by
  unfold answerProvision; split <;> simp
@[simp] theorem answerProvision_domain (b : List Byte) (s : State) : (answerProvision b s).domain = s.domain := by
  unfold answerProvision; split <;> simp
@[simp] theorem answerProvision_account (b : List Byte) (s : State) : (answerProvision b s).account = s.account := by
  unfold answerProvision; split <;> simp
@[simp] theorem answerProvision_tokens (b : List Byte) (s : State) : (answerProvision b s).tokens = s.tokens := by
  unfold answerProvision; split <;> simp
@[simp] theorem answerProvision_digests (b : List Byte) (s : State) : (answerProvision b s).digests = s.digests := by
  unfold answerProvision; split <;> simp
@[simp] theorem answerProvision_meter (b : List Byte) (s : State) : (answerProvision b s).meter = s.meter := by
  unfold answerProvision; split <;> simp
@[simp] theorem answerProvision_switches (b : List Byte) (s : State) : (answerProvision b s).switches = s.switches := by
  unfold answerProvision; split <;> simp
@[simp] theorem answerProvision_supply (b : List Byte) (s : State) : (answerProvision b s).supply = s.supply := by
  unfold answerProvision; split <;> simp
@[simp] theorem answerProvision_journal (b : List Byte) (s : State) : (answerProvision b s).journal = s.journal := by
  unfold answerProvision; split <;> simp
@[simp] theorem answerProvision_relay (b : List Byte) (s : State) : (answerProvision b s).relay = s.relay := by
  unfold answerProvision; split <;> simp
@[simp] theorem answerProvision_idleMilliseconds (b : List Byte) (s : State) : (answerProvision b s).idleMilliseconds = s.idleMilliseconds := by
  unfold answerProvision; split <;> simp

/-! Serving the HISTORY requests held touches the journal's list and the link (R148). -/

theorem foldl_answerHistory_pending (qs : List Request) (s : State) :
    (qs.foldl answerHistory s).pending = s.pending := by
  induction qs generalizing s with
  | nil => rfl
  | cons q qs ih => simp [ih, answerHistory]
@[simp] theorem serveHeldHistory_pending (s : State) : (serveHeldHistory s).pending = s.pending := by
  unfold serveHeldHistory; split
  · simp [foldl_answerHistory_pending]
  · rfl
theorem foldl_answerHistory_provisioning (qs : List Request) (s : State) :
    (qs.foldl answerHistory s).provisioning = s.provisioning := by
  induction qs generalizing s with
  | nil => rfl
  | cons q qs ih => simp [ih, answerHistory]
@[simp] theorem serveHeldHistory_provisioning (s : State) : (serveHeldHistory s).provisioning = s.provisioning := by
  unfold serveHeldHistory; split
  · simp [foldl_answerHistory_provisioning]
  · rfl
theorem foldl_answerHistory_flash (qs : List Request) (s : State) :
    (qs.foldl answerHistory s).flash = s.flash := by
  induction qs generalizing s with
  | nil => rfl
  | cons q qs ih => simp [ih, answerHistory]
@[simp] theorem serveHeldHistory_flash (s : State) : (serveHeldHistory s).flash = s.flash := by
  unfold serveHeldHistory; split
  · simp [foldl_answerHistory_flash]
  · rfl
theorem foldl_answerHistory_domain (qs : List Request) (s : State) :
    (qs.foldl answerHistory s).domain = s.domain := by
  induction qs generalizing s with
  | nil => rfl
  | cons q qs ih => simp [ih, answerHistory]
@[simp] theorem serveHeldHistory_domain (s : State) : (serveHeldHistory s).domain = s.domain := by
  unfold serveHeldHistory; split
  · simp [foldl_answerHistory_domain]
  · rfl
theorem foldl_answerHistory_account (qs : List Request) (s : State) :
    (qs.foldl answerHistory s).account = s.account := by
  induction qs generalizing s with
  | nil => rfl
  | cons q qs ih => simp [ih, answerHistory]
@[simp] theorem serveHeldHistory_account (s : State) : (serveHeldHistory s).account = s.account := by
  unfold serveHeldHistory; split
  · simp [foldl_answerHistory_account]
  · rfl
theorem foldl_answerHistory_tokens (qs : List Request) (s : State) :
    (qs.foldl answerHistory s).tokens = s.tokens := by
  induction qs generalizing s with
  | nil => rfl
  | cons q qs ih => simp [ih, answerHistory]
@[simp] theorem serveHeldHistory_tokens (s : State) : (serveHeldHistory s).tokens = s.tokens := by
  unfold serveHeldHistory; split
  · simp [foldl_answerHistory_tokens]
  · rfl
theorem foldl_answerHistory_digests (qs : List Request) (s : State) :
    (qs.foldl answerHistory s).digests = s.digests := by
  induction qs generalizing s with
  | nil => rfl
  | cons q qs ih => simp [ih, answerHistory]
@[simp] theorem serveHeldHistory_digests (s : State) : (serveHeldHistory s).digests = s.digests := by
  unfold serveHeldHistory; split
  · simp [foldl_answerHistory_digests]
  · rfl
theorem foldl_answerHistory_meter (qs : List Request) (s : State) :
    (qs.foldl answerHistory s).meter = s.meter := by
  induction qs generalizing s with
  | nil => rfl
  | cons q qs ih => simp [ih, answerHistory]
@[simp] theorem serveHeldHistory_meter (s : State) : (serveHeldHistory s).meter = s.meter := by
  unfold serveHeldHistory; split
  · simp [foldl_answerHistory_meter]
  · rfl
theorem foldl_answerHistory_switches (qs : List Request) (s : State) :
    (qs.foldl answerHistory s).switches = s.switches := by
  induction qs generalizing s with
  | nil => rfl
  | cons q qs ih => simp [ih, answerHistory]
@[simp] theorem serveHeldHistory_switches (s : State) : (serveHeldHistory s).switches = s.switches := by
  unfold serveHeldHistory; split
  · simp [foldl_answerHistory_switches]
  · rfl
theorem foldl_answerHistory_supply (qs : List Request) (s : State) :
    (qs.foldl answerHistory s).supply = s.supply := by
  induction qs generalizing s with
  | nil => rfl
  | cons q qs ih => simp [ih, answerHistory]
@[simp] theorem serveHeldHistory_supply (s : State) : (serveHeldHistory s).supply = s.supply := by
  unfold serveHeldHistory; split
  · simp [foldl_answerHistory_supply]
  · rfl
theorem foldl_answerHistory_relay (qs : List Request) (s : State) :
    (qs.foldl answerHistory s).relay = s.relay := by
  induction qs generalizing s with
  | nil => rfl
  | cons q qs ih => simp [ih, answerHistory]
@[simp] theorem serveHeldHistory_relay (s : State) : (serveHeldHistory s).relay = s.relay := by
  unfold serveHeldHistory; split
  · simp [foldl_answerHistory_relay]
  · rfl
theorem foldl_answerHistory_idleMilliseconds (qs : List Request) (s : State) :
    (qs.foldl answerHistory s).idleMilliseconds = s.idleMilliseconds := by
  induction qs generalizing s with
  | nil => rfl
  | cons q qs ih => simp [ih, answerHistory]
@[simp] theorem serveHeldHistory_idleMilliseconds (s : State) : (serveHeldHistory s).idleMilliseconds = s.idleMilliseconds := by
  unfold serveHeldHistory; split
  · simp [foldl_answerHistory_idleMilliseconds]
  · rfl

/-! A trip touches the switches and the notices (R111, R117). -/

@[simp] theorem tripPort_pending (i : Fin 4) (c : Nat) (s : State) : (tripPort i c s).pending = s.pending := by
  unfold tripPort; dsimp only; split <;> simp
@[simp] theorem tripPort_provisioning (i : Fin 4) (c : Nat) (s : State) : (tripPort i c s).provisioning = s.provisioning := by
  unfold tripPort; dsimp only; split <;> simp
@[simp] theorem tripPort_flash (i : Fin 4) (c : Nat) (s : State) : (tripPort i c s).flash = s.flash := by
  unfold tripPort; dsimp only; split <;> simp
@[simp] theorem tripPort_domain (i : Fin 4) (c : Nat) (s : State) : (tripPort i c s).domain = s.domain := by
  unfold tripPort; dsimp only; split <;> simp
@[simp] theorem tripPort_account (i : Fin 4) (c : Nat) (s : State) : (tripPort i c s).account = s.account := by
  unfold tripPort; dsimp only; split <;> simp
@[simp] theorem tripPort_tokens (i : Fin 4) (c : Nat) (s : State) : (tripPort i c s).tokens = s.tokens := by
  unfold tripPort; dsimp only; split <;> simp
@[simp] theorem tripPort_digests (i : Fin 4) (c : Nat) (s : State) : (tripPort i c s).digests = s.digests := by
  unfold tripPort; dsimp only; split <;> simp
@[simp] theorem tripPort_meter (i : Fin 4) (c : Nat) (s : State) : (tripPort i c s).meter = s.meter := by
  unfold tripPort; dsimp only; split <;> simp
@[simp] theorem tripPort_supply (i : Fin 4) (c : Nat) (s : State) : (tripPort i c s).supply = s.supply := by
  unfold tripPort; dsimp only; split <;> simp
@[simp] theorem tripPort_journal (i : Fin 4) (c : Nat) (s : State) : (tripPort i c s).journal = s.journal := by
  unfold tripPort; dsimp only; split <;> simp
@[simp] theorem tripPort_relay (i : Fin 4) (c : Nat) (s : State) : (tripPort i c s).relay = s.relay := by
  unfold tripPort; dsimp only; split <;> simp
@[simp] theorem tripPort_idleMilliseconds (i : Fin 4) (c : Nat) (s : State) : (tripPort i c s).idleMilliseconds = s.idleMilliseconds := by
  unfold tripPort; dsimp only; split <;> simp

end Sys2Proof.Machine
end

