-- ==== Sys2Proof/Laws/Held.lean ====
section
/-! SUPPORT. The requests a unit holds: served together, each is answered with what the unit shows at that moment. -/

namespace Sys2Proof.Machine

/-- A completed reply is queued or waits, and whatever was queued or waited still does. -/
theorem replied_queueReply (x r : Reply) (l : Link) (h : x = r ∨ Replied x l) : Replied x (l.queueReply r) := by
  unfold Link.queueReply
  split <;> rcases h with rfl | h | h <;> simp_all [Replied, Link.replies, Link.release]

/-- A reply whose request no break has cancelled is queued or waits in STARTING and RUN, and what did still does. -/
theorem replied_completeReply (x r : Reply) (s : State) (hp : s.supply.power.awake = true)
    (h : (x = r ∧ r.id ∉ s.link.cancelled) ∨ Replied x s.link) : Replied x (completeReply r s).link := by
  unfold completeReply
  split
  · simp_all [Power.awake]
  · simp_all [Power.awake]
  · simp only
    split
    · rcases h with ⟨-, h⟩ | h
      · contradiction
      · exact h
    · exact replied_queueReply x r _ (h.imp And.left id)

/-- A reply's completion cancels no request. -/
theorem cancelled_completeReply (i : Nat) (r : Reply) (s : State) (h : i ∈ (completeReply r s).link.cancelled) :
    i ∈ s.link.cancelled := by
  unfold completeReply at h
  split at h
  · exact h
  · exact h
  · simp only at h
    split at h
    · exact (List.mem_filter.1 h).1
    · unfold Link.queueReply at h
      split at h <;> exact h

/-- Requests answered in turn, each with a body that the answers do not change, are all answered, and what was queued or
waited still does. -/
theorem heldAnswered_foldl (f : State → Request → List Byte) (hf : ∀ r r' b s, f (answer r' b s) r = f s r)
    (held : List Request) (s : State) (hp : s.supply.power.awake = true) :
    HeldAnswered held (f s) s.link (held.foldl (fun s r => answer r (f s r) s) s).link
      ∧ ∀ x, Replied x s.link → Replied x (held.foldl (fun s r => answer r (f s r) s) s).link := by
  induction held generalizing s with
  | nil => exact ⟨fun r h => absurd h List.not_mem_nil, fun _ h => h⟩
  | cons q qs ih =>
    have hp' : (answer q (f s q) s).supply.power.awake = true := by simpa [answer] using hp
    obtain ⟨ih, keep⟩ := ih (answer q (f s q) s) hp'
    refine ⟨fun r hr hc => ?_, fun x hx => keep x (replied_completeReply x _ s hp (.inr hx))⟩
    rcases List.mem_cons.1 hr with rfl | hr
    · exact keep _ (replied_completeReply _ _ s hp (.inl ⟨rfl, hc⟩))
    · simpa only [List.foldl_cons, hf] using ih r hr fun h => hc (cancelled_completeReply _ _ s h)

/-- In RUN every HISTORY request held is answered from the flash, and none is held any more (R148). -/
theorem serveHeldHistory_answers (s : State) (h : s.supply.power = .run) :
    (serveHeldHistory s).journal.held = []
      ∧ HeldAnswered s.journal.held (fun r => historyBody s.flash (fieldAt r.body 0 4)) s.link (serveHeldHistory s).link
      ∧ ∀ x, Replied x s.link → Replied x (serveHeldHistory s).link := by
  have hj : ∀ (qs : List Request) (s : State), (qs.foldl answerHistory s).journal = s.journal := by
    intro qs
    induction qs with
    | nil => exact fun _ => rfl
    | cons q qs ih => intro s; simp [ih, answerHistory, answer]
  have hl := heldAnswered_foldl (fun s r => historyBody s.flash (fieldAt r.body 0 4)) (fun _ _ _ _ => by simp [answer])
    s.journal.held { s with journal.held := [] } (by simp [h, Power.awake])
  unfold serveHeldHistory
  rw [if_pos h]
  exact ⟨by rw [hj], hl⟩

/-- In STARTING and RUN every METER request held is answered from the meter as it stands, and none is held any more
(R98). -/
theorem serveHeldMeter_answers (s : State) (h : s.supply.power.awake = true) :
    (serveHeldMeter s).meter.held = []
      ∧ HeldAnswered s.meter.held (fun _ => meterBody s) s.link (serveHeldMeter s).link
      ∧ ∀ x, Replied x s.link → Replied x (serveHeldMeter s).link := by
  have hm : ∀ (qs : List Request) (s : State), (qs.foldl answerMeter s).meter = s.meter := by
    intro qs
    induction qs with
    | nil => exact fun _ => rfl
    | cons q qs ih => intro s; simp [ih, answerMeter, answer]
  have hl := heldAnswered_foldl (fun s _ => meterBody s) (fun _ _ _ _ => by simp [answer, meterBody])
    s.meter.held { s with meter.held := [] } h
  exact ⟨by unfold serveHeldMeter; rw [hm], hl⟩

end Sys2Proof.Machine
end

