-- ==== Sys2Proof/Laws/Link.lean ====
section
/-! SUPPORT. The link: a frame written and read, a request's characters stored, its reply queued, and the end of an event. -/

namespace Sys2Proof.Machine

/-! ## Numbers and frames -/

/-- The length of a number's bytes. -/
@[simp] theorem natBytes_length (n v : Nat) : (natBytes n v).length = n := by
  induction n with
  | zero => rfl
  | succ n ih => simp [natBytes, ih]

/-- The number that a number's bytes stand for, after others. -/
theorem foldl_natBytes (n v acc : Nat) :
    (natBytes n v).foldl (fun acc b => acc * 256 + b.toNat) acc = acc * 256 ^ n + v % 256 ^ n := by
  induction n generalizing acc with
  | zero => simp [natBytes, Nat.mod_one]
  | succ n ih =>
    simp only [natBytes, List.foldl_cons, ih, BitVec.toNat_ofNat]
    have h : v % 256 ^ (n + 1) = 256 ^ n * (v / 256 ^ n % 256) + v % 256 ^ n := by
      rw [pow_succ, Nat.mod_mul]; ring
    rw [h, show (2 : Nat) ^ 8 = 256 from rfl, pow_succ]
    ring

/-- A number's bytes stand for the number, as far as they reach. -/
theorem bytesNat_natBytes (n v : Nat) : bytesNat (natBytes n v) = v % 256 ^ n := by
  simpa [bytesNat] using foldl_natBytes n v 0

/-- The length of a frame. -/
theorem frameBytes_length (tag kind : Byte) (body : List Byte) :
    (frameBytes tag kind body).length = body.length + 5 := by
  simp [frameBytes]

/-- A frame of a body of at most 255 bytes reads as its tag, kind and body (R179, R167). -/
theorem parseFrame_frameBytes (tag kind : Byte) (body : List Byte) (h : body.length ≤ 255) :
    parseFrame (frameBytes tag kind body) = some (tag, kind, body) := by
  have hl : (BitVec.ofNat 8 body.length).toNat = body.length := by
    rw [BitVec.toNat_ofNat]; omega
  unfold parseFrame frameBytes
  simp only [List.cons_append, hl, List.length_append, natBytes_length, if_true]
  have h1 : (tag :: kind :: BitVec.ofNat 8 body.length ::
      (body ++ natBytes 2 (crc16 (tag :: kind :: BitVec.ofNat 8 body.length :: body)).toNat)).take (3 + body.length)
      = tag :: kind :: BitVec.ofNat 8 body.length :: body := by
    rw [show 3 + body.length = body.length + 1 + 1 + 1 by omega]
    simp
  rw [h1]
  have h2 := (crc16 (tag :: kind :: BitVec.ofNat 8 body.length :: body)).isLt
  simp [bytesNat_natBytes, Nat.mod_eq_of_lt h2]

/-! ## A request's characters (R165, R166) -/

/-- The characters of a frame for which there is room are stored one after another. -/
theorem characters_stored (l : Link) (h : l.reception = none) (bs : List Byte) (hne : bs ≠ [])
    (hc : bs.length ≤ 260) (hr : bs.length ≤ l.freeRun) :
    bs.foldl (fun m b => m.character b true) l =
      { l with
        reception := some ⟨l.writePos, bs.length, bs, .good⟩
        writePos := (l.writePos + bs.length) % 512 } := by
  induction bs using List.reverseRecOn with
  | nil => exact absurd rfl hne
  | append_singleton bs b ih =>
    simp only [List.length_append, List.length_singleton] at hc hr ⊢
    rw [List.foldl_append]
    by_cases hb : bs = []
    · subst hb
      simp only [List.length_nil] at hc hr
      have hf : l.freeRun ≠ 0 := by omega
      simp [Link.character, h, Link.storeCharacter, hf, conditionAfter]
    · have hpos : 0 < bs.length := List.length_pos_iff.2 hb
      rw [ih hb (by omega) (by omega)]
      have hf : ({ l with
          reception := some ⟨l.writePos, bs.length, bs, .good⟩
          writePos := (l.writePos + bs.length) % 512 } : Link).freeRun ≠ 0 := by
        unfold Link.freeRun Link.oldestStart at hr ⊢
        cases hh : l.held with
        | nil => simp only [hb, if_false]; omega
        | cons x rest =>
          simp only [hh] at hr ⊢
          omega
      simp only [List.foldl_cons, List.foldl_nil, Link.character, Option.getD_some, Link.storeCharacter,
        if_neg hf, if_neg (show ¬260 ≤ bs.length by omega), conditionAfter, if_true]
      congr 1
      omega

/-- Characters arriving on a line that is read go to the link one after another. -/
theorem charactersArrive_eq (bs : List Byte) (s : State) (h : s.link.receiving = true) :
    charactersArrive bs s = { s with link := bs.foldl (fun m b => m.character b true) s.link } := by
  unfold charactersArrive
  induction bs generalizing s with
  | nil => rfl
  | cons b rest ih =>
    have h1 : (characterArrives b true s) = { s with link := s.link.character b true } := by
      simp [characterArrives, h]
    have h2 : (s.link.character b true).receiving = true := by
      unfold Link.character Link.storeCharacter
      simp only
      split <;> (try split) <;> (try split) <;> simpa using h
    simp only [List.foldl_cons, h1]
    rw [ih _ h2]

/-- A request's frame that finds room is held and routed (R166 to R168). -/
theorem receiveFrame_room (k : RequestKind) (tag : Byte) (body : List Byte) (s : State) (h : RoomFor body s) :
    receiveFrame tag k.code body s = route (arrivedRequest k tag body s.link) (withFrame k tag body s) := by
  obtain ⟨h1, h2, h3, h4⟩ := h
  have hl := frameBytes_length tag k.code body
  unfold receiveFrame
  rw [charactersArrive_eq _ _ h1,
    characters_stored s.link h2 _ (by intro e; rw [e] at hl; simp at hl) (by omega) (by omega)]
  simp only [frameEnds, judgeBytes, parseFrame_frameBytes tag k.code body h3, arrivedRequest, withFrame, arrivedFrame, hl,
    h2, Nat.add_assoc]

/-- A request that the link admits reaches its owner (R168). -/
theorem route_admitted (k : RequestKind) (tag : Byte) (body : List Byte) (s : State) (h : Admitted k s) :
    route (arrivedRequest k tag body s.link) (withFrame k tag body s) =
      serve k (arrivedRequest k tag body s.link)
        { withFrame k tag body s with link.handed := s.link.handed ++ [s.link.nextId] } := by
  have hk : requestKindOf k.code = some k := by cases k <;> rfl
  have hp : (withFrame k tag body s).provisioning = s.provisioning := rfl
  unfold route
  simp only [arrivedRequest, hp, hk]
  rw [show generalRefusal s.provisioning k.code = none from h]
  rfl

/-- A request that the link refuses is answered with the refusal (R168). -/
theorem route_refused (k : RequestKind) (tag : Byte) (body : List Byte) (r : ReplyResult) (s : State)
    (h : generalRefusal s.provisioning k.code = some r) :
    route (arrivedRequest k tag body s.link) (withFrame k tag body s) =
      answerResult (arrivedRequest k tag body s.link) r (withFrame k tag body s) := by
  have hp : (withFrame k tag body s).provisioning = s.provisioning := rfl
  unfold route
  simp only [arrivedRequest, hp]
  rw [h]

/-! ## Sending (R169, R171) -/

/-- The replies of a list from which sending begins are those it had. -/
theorem beginSending_replies (set : BitVec 16) (xs : List TxFrame) :
    ((beginSending set xs).1.filterMap (fun x => match x with
      | .reply r => some r
      | .notice _ => none)) = xs.filterMap (fun x => match x with
      | .reply r => some r
      | .notice _ => none) := by
  induction xs with
  | nil => rfl
  | cons x rest ih =>
    cases x with
    | reply r => simp [beginSending]
    | notice o =>
      cases o with
      | some y => simp [beginSending]
      | none =>
        unfold beginSending
        split
        · simpa using ih
        · simp

/-- Sending begins with every frame that is there. -/
theorem beginSending_none (set : BitVec 16) (xs : List TxFrame) (h : (beginSending set xs).2 = none) :
    (beginSending set xs).1 = [] := by
  induction xs with
  | nil => rfl
  | cons x rest ih =>
    cases x with
    | reply r => simp [beginSending] at h
    | notice o =>
      cases o with
      | some y => simp [beginSending] at h
      | none =>
        unfold beginSending at h ⊢
        split
        · rename_i hz
          rw [if_pos hz] at h
          exact ih h
        · rename_i hz
          rw [if_neg hz] at h
          simp at h

/-- Beginning to send changes only the NOTICE frames of the transmit list and what is on the line. -/
theorem pump_eq (l : Link) : l.pump = { l with transmit := l.pump.transmit, onLine := l.pump.onLine } := by
  unfold Link.pump
  split <;> rfl

@[simp] theorem pump_receiving (l : Link) : l.pump.receiving = l.receiving := by rw [pump_eq]
@[simp] theorem pump_held (l : Link) : l.pump.held = l.held := by rw [pump_eq]
@[simp] theorem pump_writePos (l : Link) : l.pump.writePos = l.writePos := by rw [pump_eq]
@[simp] theorem pump_reception (l : Link) : l.pump.reception = l.reception := by rw [pump_eq]
@[simp] theorem pump_completed (l : Link) : l.pump.completed = l.completed := by rw [pump_eq]
@[simp] theorem pump_cancelled (l : Link) : l.pump.cancelled = l.cancelled := by rw [pump_eq]
@[simp] theorem pump_handed (l : Link) : l.pump.handed = l.handed := by rw [pump_eq]
@[simp] theorem pump_notices (l : Link) : l.pump.notices = l.notices := by rw [pump_eq]
@[simp] theorem pump_overruns (l : Link) : l.pump.overruns = l.overruns := by rw [pump_eq]
@[simp] theorem pump_errors (l : Link) : l.pump.errors = l.errors := by rw [pump_eq]
@[simp] theorem pump_nextId (l : Link) : l.pump.nextId = l.nextId := by rw [pump_eq]

/-- Beginning to send keeps the replies queued, in their order. -/
@[simp] theorem pump_replies (l : Link) : l.pump.replies = l.replies := by
  unfold Link.pump
  split
  · exact beginSending_replies _ _
  · rfl

/-- After beginning to send the link is settled. -/
theorem pump_settled (l : Link) : LinkSettled l.pump := by
  intro h
  unfold Link.pump at h ⊢
  split
  · rename_i hc
    rw [if_pos hc] at h
    exact beginSending_none _ _ h.2
  · rename_i hc
    rw [if_neg hc] at h
    simp [h.1, h.2] at hc

/-- A settled link has nothing to begin. -/
theorem pump_of_settled (l : Link) (h : LinkSettled l) : l.pump = l := by
  unfold Link.pump
  split
  · rename_i hc
    simp only [Bool.and_eq_true, decide_eq_true_eq] at hc
    have := h hc
    simp only [this, beginSending]
    rw [← this, ← hc.2]
  · rfl

/-- The replies of a list, counted. -/
theorem replyCount_eq (l : Link) : l.replyCount = l.replies.length := by
  unfold Link.replyCount Link.replies
  induction l.transmit with
  | nil => rfl
  | cons x rest ih => cases x <;> simp [List.filter_cons, TxFrame.isReply, ih]

/-! ## Replies (R169) -/

/-- Appending a frame number to fresh ones and removing it again changes nothing. -/
theorem filter_append_fresh (xs : List Nat) (n : Nat) (h : ∀ i ∈ xs, i < n) :
    (xs ++ [n]).filter (fun i => i ≠ n) = xs := by
  rw [List.filter_append]
  have : xs.filter (fun i => i ≠ n) = xs :=
    List.filter_eq_self.2 fun i hi => by have := h i hi; simp; omega
  rw [this]; simp

/-- Removing a fresh number from a list changes nothing. -/
theorem filter_fresh (xs : List Nat) (n : Nat) (h : ∀ i ∈ xs, i < n) : xs.filter (fun i => i ≠ n) = xs :=
  List.filter_eq_self.2 fun i hi => by have := h i hi; simp; omega

/-- A completed reply to a request that has arrived, handed or refused, is queued or waits, and the link begins to send
(R169). `m` is the link as the request's owner left it. -/
theorem completeReply_answered (k : RequestKind) (tag : Byte) (body reply : List Byte) (restarts : Bool) (s x : State)
    (hr : Ready body s) (hp : x.supply.power = s.supply.power)
    (hx : x.link.receiving = true ∧ x.link.reception = none
      ∧ x.link.writePos = (s.link.writePos + body.length + 5) % 512 ∧ x.link.cancelled = s.link.cancelled
      ∧ x.link.overruns = s.link.overruns ∧ x.link.errors = s.link.errors ∧ x.link.nextId = s.link.nextId + 1
      ∧ (x.link.handed = s.link.handed ∨ x.link.handed = s.link.handed ++ [s.link.nextId])
      ∧ x.link.transmit = s.link.transmit ∧ x.link.completed = s.link.completed
      ∧ x.link.held = s.link.held ++ [arrivedFrame k tag body s.link]) :
    Answered k tag body reply restarts s.link
      (completeReply ⟨s.link.nextId, tag, k.code, reply, restarts⟩ x).link.pump := by
  obtain ⟨-, haw, -, hid⟩ := hr
  obtain ⟨h1, h2, h3, h4, h5, h6, h7, h8, h9, h10, h11⟩ := hx
  have hh : x.link.handed.filter (fun i => i ≠ s.link.nextId) = s.link.handed := by
    rcases h8 with h8 | h8 <;> rw [h8]
    · exact filter_fresh _ _ hid.2.1
    · exact filter_append_fresh _ _ hid.2.1
  have hc : s.link.nextId ∉ x.link.cancelled := by
    rw [h4]; intro hm; exact absurd (hid.2.2 _ hm) (lt_irrefl _)
  have hheld : (s.link.held ++ [arrivedFrame k tag body s.link]).filter (fun h => h.id ≠ s.link.nextId) = s.link.held := by
    rw [List.filter_append]
    have : s.link.held.filter (fun h => h.id ≠ s.link.nextId) = s.link.held :=
      List.filter_eq_self.2 fun h hm => by have := hid.1 h hm; simp; omega
    rw [this]; simp [arrivedFrame]
  have hrep : x.link.replies = s.link.replies := by simp [Link.replies, h9]
  have hcount : x.link.replyCount = s.link.replyCount := by rw [replyCount_eq, replyCount_eq, hrep]
  have hlink : (completeReply ⟨s.link.nextId, tag, k.code, reply, restarts⟩ x).link =
      ({ x.link with handed := s.link.handed } : Link).queueReply ⟨s.link.nextId, tag, k.code, reply, restarts⟩ := by
    unfold completeReply
    rw [hp]
    cases hpw : s.supply.power
    · rw [hpw] at haw; cases haw
    · simp only [hh, if_neg hc]
    · simp only [hh, if_neg hc]
    · rw [hpw] at haw; cases haw
  rw [hlink]
  unfold Link.queueReply
  have hcount' : ({ x.link with handed := s.link.handed } : Link).replyCount = s.link.replyCount := hcount
  rw [hcount']
  by_cases hlt : s.link.replyCount < 4
  · rw [if_pos hlt]
    refine ⟨⟨?_, ?_, ?_, ?_, ?_, ?_, ?_⟩, ?_, ?_⟩
    · simpa [Link.release] using h1
    · simpa [Link.release] using h2
    · simpa [Link.release] using h3
    · simpa [Link.release] using h4
    · simpa [Link.release] using h5
    · simpa [Link.release] using h6
    · simpa [Link.release] using h7
    · simp [Link.release]
    · rw [if_pos hlt]
      refine ⟨?_, ?_, ?_⟩
      · rw [pump_replies]
        simp only [Link.replies, Link.release] at hrep ⊢
        rw [List.filterMap_append, hrep]
        rfl
      · simpa [Link.release] using h10
      · rw [pump_held]
        simp only [Link.release]
        rw [h11]
        exact hheld
  · rw [if_neg hlt]
    refine ⟨⟨?_, ?_, ?_, ?_, ?_, ?_, ?_⟩, ?_, ?_⟩
    · simpa using h1
    · simpa using h2
    · simpa using h3
    · simpa using h4
    · simpa using h5
    · simpa using h6
    · simpa using h7
    · simp
    · rw [if_neg hlt]
      refine ⟨?_, ?_, ?_⟩
      · rw [pump_replies]
        exact hrep
      · rw [pump_completed, ← h10]
      · rw [pump_held, ← h11]

/-! ## The end of an event -/

/-- With the units settled the end of an event only begins to send. -/
theorem finish_unitsSettled (o : DigestOrder) (s : State) (h : UnitsSettled s) :
    finish o s = { s with link := s.link.pump } := by
  obtain ⟨h1, h2, h3⟩ := h
  have ht : ∀ n, serveTokens n s = s := by
    intro n
    cases n with
    | zero => rfl
    | succ n =>
      unfold serveTokens
      split
      · rename_i hc; rw [h1 hc]
      · rfl
  have hs : ∀ n, serveStore n s = s := by
    intro n
    cases n with
    | zero => rfl
    | succ n =>
      unfold serveStore
      split
      · rename_i hc; rw [h2 hc]
      · rfl
  have hj : journalGoOn s = s := by
    unfold journalGoOn
    split
    · rfl
    · rename_i hc
      simp only [not_or, Bool.not_eq_true, ne_eq, not_not] at hc
      rw [h3 ⟨hc.1, hc.2.1, hc.2.2⟩]
  have hu : settleUnits o s = s := by
    cases o <;> simp [settleUnits, settleTokens, settleStore, ht, hs]
  unfold finish
  simp only [hu, hj]

/-- With everything settled the end of an event changes nothing. -/
theorem finish_settled (o : DigestOrder) (s : State) (h : Settled s) : finish o s = s := by
  rw [finish_unitsSettled o s h.1, pump_of_settled _ h.2]

end Sys2Proof.Machine
end

