-- ==== Sys2Proof/WellFormed.lean ====
section
/-! DEFINITION. What makes a command well formed: a body that a frame can carry, and an erase that speaks of at most the slots of one sector. -/

namespace Sys2Proof

/-- A frame carries a body of 0..255 bytes (R179). -/
def bodyFits (body : List Byte) : Bool := body.length ≤ 255

/-- A sector has 60 slots (Section 8.1). -/
def slotsFit (left : List SlotLeft) : Bool := left.length ≤ 60

/-- The command's operands are ones the part can meet. -/
def Instr.wellFormed : Instr → Bool
  | .status _ b => bodyFits b
  | .notices _ b => bodyFits b
  | .enterToken _ b => bodyFits b
  | .port _ b => bodyFits b
  | .unlatch _ b => bodyFits b
  | .meter _ b => bodyFits b
  | .history _ b => bodyFits b
  | .carry _ b => bodyFits b
  | .handoff _ b => bodyFits b
  | .receipts _ b => bodyFits b
  | .provision _ b => bodyFits b
  | .identity _ b => bodyFits b
  | .clock _ b => bodyFits b
  | .restart _ b => bodyFits b
  | .characterReceived _ _ => true
  | .frameEnd => true
  | .lineBreak => true
  | .lineBreakEnd => true
  | .frameSent => true
  | .secondEvent _ => true
  | .crystalQualified => true
  | .crystalGap => true
  | .crystalQualificationReset => true
  | .trip _ _ => true
  | .rampStep _ => true
  | .tripWaitEnd _ => true
  | .onRunComplete _ => true
  | .penaltyWaitEnd => true
  | .tokenCheckDigestDone => true
  | .receiptEnvelopeDone => true
  | .itemEnvelopeCheckDone _ => true
  | .envelopeRenewalDone => true
  | .journalWriteEnd _ => true
  | .sectorEraseEnd _ left => slotsFit left
  | .programmingEnd _ => true
  | .startEvent _ => true
  | .supplyLoss cut => slotsFit cut.eraseLeft
  | .clockDomainPowerUp => true
  | .clockDomainPowerLoss cut => slotsFit cut.eraseLeft
  | .corePowerUp => true

end Sys2Proof
end

