-- ==== Sys2Proof/Laws/PerInstr.lean ====
section
/-! SUPPORT. For every command: it is well formed exactly when its body fits a frame and its erase fits a sector. -/

-- One proof at a time: many at once wait on one another and use more threads than the checks allow.
set_option Elab.async false

namespace Sys2Proof.Laws

/-- The body of a request; no other command has one. -/
def Operands.body : Instr → List Byte
  | .status _ b => b
  | .notices _ b => b
  | .enterToken _ b => b
  | .port _ b => b
  | .unlatch _ b => b
  | .meter _ b => b
  | .history _ b => b
  | .carry _ b => b
  | .handoff _ b => b
  | .receipts _ b => b
  | .provision _ b => b
  | .identity _ b => b
  | .clock _ b => b
  | .restart _ b => b
  | .characterReceived _ _ => []
  | .frameEnd => []
  | .lineBreak => []
  | .lineBreakEnd => []
  | .frameSent => []
  | .secondEvent _ => []
  | .crystalQualified => []
  | .crystalGap => []
  | .crystalQualificationReset => []
  | .trip _ _ => []
  | .rampStep _ => []
  | .tripWaitEnd _ => []
  | .onRunComplete _ => []
  | .penaltyWaitEnd => []
  | .tokenCheckDigestDone => []
  | .receiptEnvelopeDone => []
  | .itemEnvelopeCheckDone _ => []
  | .envelopeRenewalDone => []
  | .journalWriteEnd _ => []
  | .sectorEraseEnd _ _ => []
  | .programmingEnd _ => []
  | .startEvent _ => []
  | .supplyLoss _ => []
  | .clockDomainPowerUp => []
  | .clockDomainPowerLoss _ => []
  | .corePowerUp => []

/-- What a command says of the slots of a sector. -/
def Operands.slots : Instr → List SlotLeft
  | .status _ _ => []
  | .notices _ _ => []
  | .enterToken _ _ => []
  | .port _ _ => []
  | .unlatch _ _ => []
  | .meter _ _ => []
  | .history _ _ => []
  | .carry _ _ => []
  | .handoff _ _ => []
  | .receipts _ _ => []
  | .provision _ _ => []
  | .identity _ _ => []
  | .clock _ _ => []
  | .restart _ _ => []
  | .characterReceived _ _ => []
  | .frameEnd => []
  | .lineBreak => []
  | .lineBreakEnd => []
  | .frameSent => []
  | .secondEvent _ => []
  | .crystalQualified => []
  | .crystalGap => []
  | .crystalQualificationReset => []
  | .trip _ _ => []
  | .rampStep _ => []
  | .tripWaitEnd _ => []
  | .onRunComplete _ => []
  | .penaltyWaitEnd => []
  | .tokenCheckDigestDone => []
  | .receiptEnvelopeDone => []
  | .itemEnvelopeCheckDone _ => []
  | .envelopeRenewalDone => []
  | .journalWriteEnd _ => []
  | .sectorEraseEnd _ left => left
  | .programmingEnd _ => []
  | .startEvent _ => []
  | .supplyLoss cut => cut.eraseLeft
  | .clockDomainPowerUp => []
  | .clockDomainPowerLoss cut => cut.eraseLeft
  | .corePowerUp => []

/-- A command is well formed exactly when its body has at most 255 bytes (R179) and it speaks of at most 60 slots. -/
def Operands.Statement (c : Instr) : Prop :=
  c.wellFormed = true ↔ (Operands.body c).length ≤ 255 ∧ (Operands.slots c).length ≤ 60

theorem Operands.status (t : Byte) (b : List Byte) : Operands.Statement (.status t b) := by
  simp [Operands.Statement, Operands.body, Operands.slots, Instr.wellFormed, bodyFits]
theorem Operands.notices (t : Byte) (b : List Byte) : Operands.Statement (.notices t b) := by
  simp [Operands.Statement, Operands.body, Operands.slots, Instr.wellFormed, bodyFits]
theorem Operands.enterToken (t : Byte) (b : List Byte) : Operands.Statement (.enterToken t b) := by
  simp [Operands.Statement, Operands.body, Operands.slots, Instr.wellFormed, bodyFits]
theorem Operands.port (t : Byte) (b : List Byte) : Operands.Statement (.port t b) := by
  simp [Operands.Statement, Operands.body, Operands.slots, Instr.wellFormed, bodyFits]
theorem Operands.unlatch (t : Byte) (b : List Byte) : Operands.Statement (.unlatch t b) := by
  simp [Operands.Statement, Operands.body, Operands.slots, Instr.wellFormed, bodyFits]
theorem Operands.meter (t : Byte) (b : List Byte) : Operands.Statement (.meter t b) := by
  simp [Operands.Statement, Operands.body, Operands.slots, Instr.wellFormed, bodyFits]
theorem Operands.history (t : Byte) (b : List Byte) : Operands.Statement (.history t b) := by
  simp [Operands.Statement, Operands.body, Operands.slots, Instr.wellFormed, bodyFits]
theorem Operands.carry (t : Byte) (b : List Byte) : Operands.Statement (.carry t b) := by
  simp [Operands.Statement, Operands.body, Operands.slots, Instr.wellFormed, bodyFits]
theorem Operands.handoff (t : Byte) (b : List Byte) : Operands.Statement (.handoff t b) := by
  simp [Operands.Statement, Operands.body, Operands.slots, Instr.wellFormed, bodyFits]
theorem Operands.receipts (t : Byte) (b : List Byte) : Operands.Statement (.receipts t b) := by
  simp [Operands.Statement, Operands.body, Operands.slots, Instr.wellFormed, bodyFits]
theorem Operands.provision (t : Byte) (b : List Byte) : Operands.Statement (.provision t b) := by
  simp [Operands.Statement, Operands.body, Operands.slots, Instr.wellFormed, bodyFits]
theorem Operands.identity (t : Byte) (b : List Byte) : Operands.Statement (.identity t b) := by
  simp [Operands.Statement, Operands.body, Operands.slots, Instr.wellFormed, bodyFits]
theorem Operands.clock (t : Byte) (b : List Byte) : Operands.Statement (.clock t b) := by
  simp [Operands.Statement, Operands.body, Operands.slots, Instr.wellFormed, bodyFits]
theorem Operands.restart (t : Byte) (b : List Byte) : Operands.Statement (.restart t b) := by
  simp [Operands.Statement, Operands.body, Operands.slots, Instr.wellFormed, bodyFits]
theorem Operands.characterReceived (c : Byte) (b : Bool) : Operands.Statement (.characterReceived c b) := by
  simp [Operands.Statement, Operands.body, Operands.slots, Instr.wellFormed]
theorem Operands.frameEnd : Operands.Statement (.frameEnd) := by
  simp [Operands.Statement, Operands.body, Operands.slots, Instr.wellFormed]
theorem Operands.lineBreak : Operands.Statement (.lineBreak) := by
  simp [Operands.Statement, Operands.body, Operands.slots, Instr.wellFormed]
theorem Operands.lineBreakEnd : Operands.Statement (.lineBreakEnd) := by
  simp [Operands.Statement, Operands.body, Operands.slots, Instr.wellFormed]
theorem Operands.frameSent : Operands.Statement (.frameSent) := by
  simp [Operands.Statement, Operands.body, Operands.slots, Instr.wellFormed]
theorem Operands.secondEvent (x : Sample) : Operands.Statement (.secondEvent x) := by
  simp [Operands.Statement, Operands.body, Operands.slots, Instr.wellFormed]
theorem Operands.crystalQualified : Operands.Statement (.crystalQualified) := by
  simp [Operands.Statement, Operands.body, Operands.slots, Instr.wellFormed]
theorem Operands.crystalGap : Operands.Statement (.crystalGap) := by
  simp [Operands.Statement, Operands.body, Operands.slots, Instr.wellFormed]
theorem Operands.crystalQualificationReset : Operands.Statement (.crystalQualificationReset) := by
  simp [Operands.Statement, Operands.body, Operands.slots, Instr.wellFormed]
theorem Operands.trip (p : Fin 4) (c : Nat) : Operands.Statement (.trip p c) := by
  simp [Operands.Statement, Operands.body, Operands.slots, Instr.wellFormed]
theorem Operands.rampStep (p : Fin 4) : Operands.Statement (.rampStep p) := by
  simp [Operands.Statement, Operands.body, Operands.slots, Instr.wellFormed]
theorem Operands.tripWaitEnd (p : Fin 4) : Operands.Statement (.tripWaitEnd p) := by
  simp [Operands.Statement, Operands.body, Operands.slots, Instr.wellFormed]
theorem Operands.onRunComplete (p : Fin 4) : Operands.Statement (.onRunComplete p) := by
  simp [Operands.Statement, Operands.body, Operands.slots, Instr.wellFormed]
theorem Operands.penaltyWaitEnd : Operands.Statement (.penaltyWaitEnd) := by
  simp [Operands.Statement, Operands.body, Operands.slots, Instr.wellFormed]
theorem Operands.tokenCheckDigestDone : Operands.Statement (.tokenCheckDigestDone) := by
  simp [Operands.Statement, Operands.body, Operands.slots, Instr.wellFormed]
theorem Operands.receiptEnvelopeDone : Operands.Statement (.receiptEnvelopeDone) := by
  simp [Operands.Statement, Operands.body, Operands.slots, Instr.wellFormed]
theorem Operands.itemEnvelopeCheckDone (o : DigestOrder) : Operands.Statement (.itemEnvelopeCheckDone o) := by
  simp [Operands.Statement, Operands.body, Operands.slots, Instr.wellFormed]
theorem Operands.envelopeRenewalDone : Operands.Statement (.envelopeRenewalDone) := by
  simp [Operands.Statement, Operands.body, Operands.slots, Instr.wellFormed]
theorem Operands.journalWriteEnd (v : Bool) : Operands.Statement (.journalWriteEnd v) := by
  simp [Operands.Statement, Operands.body, Operands.slots, Instr.wellFormed]
theorem Operands.sectorEraseEnd (v : Bool) (l : List SlotLeft) : Operands.Statement (.sectorEraseEnd v l) := by
  simp [Operands.Statement, Operands.body, Operands.slots, Instr.wellFormed, slotsFit]
theorem Operands.programmingEnd (v : Bool) : Operands.Statement (.programmingEnd v) := by
  simp [Operands.Statement, Operands.body, Operands.slots, Instr.wellFormed]
theorem Operands.startEvent (o : DigestOrder) : Operands.Statement (.startEvent o) := by
  simp [Operands.Statement, Operands.body, Operands.slots, Instr.wellFormed]
theorem Operands.supplyLoss (c : FlashCut) : Operands.Statement (.supplyLoss c) := by
  simp [Operands.Statement, Operands.body, Operands.slots, Instr.wellFormed, slotsFit]
theorem Operands.clockDomainPowerUp : Operands.Statement (.clockDomainPowerUp) := by
  simp [Operands.Statement, Operands.body, Operands.slots, Instr.wellFormed]
theorem Operands.clockDomainPowerLoss (c : FlashCut) : Operands.Statement (.clockDomainPowerLoss c) := by
  simp [Operands.Statement, Operands.body, Operands.slots, Instr.wellFormed, slotsFit]
theorem Operands.corePowerUp : Operands.Statement (.corePowerUp) := by
  simp [Operands.Statement, Operands.body, Operands.slots, Instr.wellFormed]

end Sys2Proof.Laws
end

