-- ==== Sys2Proof/Laws/Ports.lean ====
section
/-! SUPPORT. The promises of the port states (PortOk) are kept by everything a port does while the block is switching. -/

namespace Sys2Proof.Machine

/-- A port that acts on a new target keeps the promises (Table 6-4). The promises of its state are asked of the port as
it was but for the target. -/
theorem actOnTarget_ok (p : Port) (ht : p.target = p.wanted) (hd : p.demandDuty ≤ 1000) (hr : p.retry ≤ 3)
    (hi : p.state = .idle → p.demand = false ∧ p.duty = 0)
    (hb : p.state = .barred → p.demand = true ∧ p.duty = 0)
    (hm : p.state = .ramping ∨ p.state = .on ∨ p.state = .tripWait → p.demand = true)
    (hz : p.state = .tripWait ∨ p.state = .latched → p.duty = 0) : PortOk p.actOnTarget := by
  have hw : ∀ q : Port, q.demand = p.demand → q.demandDuty = p.demandDuty → q.accountCap = p.accountCap →
      q.shedCap = p.shedCap → q.target = p.target → q.target = q.wanted := by
    intro q h1 h2 h3 h4 h5
    rw [h5, ht]; simp [Port.wanted, h1, h2, h3, h4]
  unfold Port.actOnTarget
  cases hs : p.state <;> simp only
  · exact ⟨ht, hd, hr, by simpa [hs] using hi hs, by simp [hs], by simp [hs], by simp [hs], by simp [hs], by simp [hs]⟩
  · have := hb hs
    split
    · exact ⟨ht, hd, hr, by simp [hs], by simp_all, by simp [hs], by simp [hs], by simp [hs], by simp [hs]⟩
    · refine ⟨hw _ rfl rfl rfl rfl rfl, hd, hr, ?_⟩
      simp [Port.enterRamping, this]; omega
  · have := hm (.inl hs)
    split
    · refine ⟨hw _ rfl rfl rfl rfl rfl, hd, hr, ?_⟩
      simp [Port.enterBarred]; simp_all
    · split
      · refine ⟨hw _ rfl rfl rfl rfl rfl, hd, hr, ?_⟩
        simp [Port.enterOn, this]; omega
      · refine ⟨ht, hd, hr, ?_⟩
        simp [hs, this]; omega
  · have := hm (.inr (.inl hs))
    split
    · refine ⟨hw _ rfl rfl rfl rfl rfl, hd, hr, ?_⟩
      simp [Port.enterBarred]; simp_all
    · split
      · refine ⟨hw _ rfl rfl rfl rfl rfl, hd, hr, ?_⟩
        simp [this]; omega
      · split
        · refine ⟨hw _ rfl rfl rfl rfl rfl, hd, hr, ?_⟩
          simp [Port.enterRamping, this]; omega
        · refine ⟨ht, hd, hr, ?_⟩
          simp [hs, this]; omega
  · have h1 := hm (.inr (.inr hs))
    have h2 := hz (.inl hs)
    exact ⟨ht, hd, hr, by simp [hs], by simp [hs], by simp [hs], by simp [hs], by simp [h1, h2], by simp [hs]⟩
  · have h2 := hz (.inr hs)
    exact ⟨ht, hd, hr, by simp [hs], by simp [hs], by simp [hs], by simp [hs], by simp [hs], by simp [h2]⟩

/-- A port whose target is recomputed keeps the promises, whatever its demand duty and caps have become, while its demand
is as it was (R104). -/
theorem retarget_ok (p q : Port) (h : PortOk p) (hst : q.state = p.state) (hde : q.demand = p.demand)
    (hdu : q.duty = p.duty) (htg : q.target = p.target) (hre : q.retry = p.retry) (hdd : q.demandDuty ≤ 1000) :
    PortOk q.retarget := by
  obtain ⟨h1, h2, h3, h4, h5, h6, h7, h8, h9⟩ := h
  unfold Port.retarget
  split
  · rename_i hw
    rw [← hst, ← hde, ← hdu] at h4
    rw [← hst, ← hde, ← hdu, ← htg] at h5
    rw [← hst, ← hde, ← hdu, ← htg] at h6
    rw [← hst, ← hde, ← hdu, ← htg] at h7
    rw [← hst, ← hde, ← hdu] at h8
    rw [← hst, ← hdu] at h9
    exact ⟨hw.symm, hdd, by omega, h4, h5, h6, h7, h8, h9⟩
  · refine actOnTarget_ok _ rfl hdd (by simpa [hre] using h3) ?_ ?_ ?_ ?_
    · intro e; simp only at e ⊢; rw [hde, hdu]; exact h4 (hst.symm.trans e)
    · intro e; simp only at e ⊢; rw [hde, hdu]; exact ⟨(h5 (hst.symm.trans e)).1, (h5 (hst.symm.trans e)).2.2⟩
    · intro e; simp only at e ⊢; rw [hde]; rw [hst] at e
      rcases e with e | e | e
      · exact (h6 e).1
      · exact (h7 e).1
      · exact (h8 e).1
    · intro e; simp only at e ⊢; rw [hdu]; rw [hst] at e
      rcases e with e | e
      · exact (h8 e).2
      · exact h9 e

/-- A port with demand OFF wants nothing. -/
theorem wanted_off (p : Port) (h : p.demand = false) : p.wanted = 0 := by simp [Port.wanted, h]

/-- A latched port whose target is recomputed keeps the promises, whatever its demand has become (R113). -/
theorem retarget_latched_ok (q : Port) (hs : q.state = .latched) (hz : q.duty = 0) (hd : q.demandDuty ≤ 1000)
    (hr : q.retry ≤ 3) : PortOk q.retarget := by
  unfold Port.retarget
  split
  · rename_i hw
    exact ⟨hw.symm, hd, hr, by simp [hs], by simp [hs], by simp [hs], by simp [hs], by simp [hs], fun _ => hz⟩
  · exact actOnTarget_ok _ rfl hd hr (by simp [hs]) (by simp [hs]) (by simp [hs]) (fun _ => hz)

/-- A port that goes to IDLE with demand OFF keeps the promises (R107). -/
theorem enterIdle_ok (q : Port) (h1 : q.demand = false) (h2 : q.demandDuty ≤ 1000) (h3 : q.target = q.wanted) :
    PortOk q.enterIdle := by
  have : q.target = 0 := by rw [h3, wanted_off q h1]
  simp [PortOk, Port.enterIdle, Port.wanted, h1, h2, this]

/-- A PORT request keeps the promises (R107, R113). -/
theorem setDemand_ok (on : Bool) (d : Nat) (p : Port) (hd : d ≤ 1000) (h : PortOk p) :
    PortOk (p.setDemand on d) := by
  have hdem : p.state ≠ .idle → p.state ≠ .latched → p.demand = true := by
    obtain ⟨-, -, -, -, h5, h6, h7, h8, -⟩ := h
    intro hi hl
    cases hs : p.state
    · exact absurd hs hi
    · exact (h5 hs).1
    · exact (h6 hs).1
    · exact (h7 hs).1
    · exact (h8 hs).1
    · exact absurd hs hl
  unfold Port.setDemand
  split
  · rename_i hs
    obtain ⟨h1, h2, h3, h4, -⟩ := h
    have h4 := h4 hs
    cases on with
    | true =>
      simp only [if_true]
      split
      · rename_i hz
        refine ⟨?_, hd, h3, ?_⟩
        · simp [Port.enterBarred, Port.wanted]
        · simp only [Port.enterBarred]
          simp; exact hz
      · rename_i hz
        refine ⟨?_, hd, h3, ?_⟩
        · simp [Port.enterRamping, Port.wanted]
        · simp only [Port.enterRamping]
          simp; exact Nat.pos_of_ne_zero hz
    | false =>
      refine ⟨?_, hd, h3, ?_⟩
      · simp [Port.wanted]
      · simp [hs, h4]
  · rename_i hs
    cases on
    · exact enterIdle_ok _ rfl hd rfl
    · exact retarget_ok p _ h rfl (hdem (by simp [hs]) (by simp [hs])).symm rfl rfl rfl hd
  · rename_i hs
    cases on
    · exact enterIdle_ok _ rfl hd rfl
    · exact retarget_ok p _ h rfl (hdem (by simp [hs]) (by simp [hs])).symm rfl rfl rfl hd
  · rename_i hs
    cases on
    · exact enterIdle_ok _ rfl hd rfl
    · exact retarget_ok p _ h rfl (hdem (by simp [hs]) (by simp [hs])).symm rfl rfl rfl hd
  · rename_i hs
    cases on
    · exact enterIdle_ok _ rfl hd rfl
    · exact retarget_ok p _ h rfl (hdem (by simp [hs]) (by simp [hs])).symm rfl rfl rfl hd
  · rename_i hs
    obtain ⟨-, -, h3, -, -, -, -, -, h9⟩ := h
    exact retarget_latched_ok _ hs (h9 hs) hd h3

/-- An account cap that reaches a port keeps the promises (R105). -/
theorem giveAccountCap_ok (c : Nat) (p : Port) (h : PortOk p) : PortOk (p.giveAccountCap c) :=
  retarget_ok p _ h rfl rfl rfl rfl rfl h.2.1

/-- A shed level that reaches a port keeps the promises (R106). -/
theorem giveShedLevel_ok (l r : Nat) (p : Port) (h : PortOk p) : PortOk (p.giveShedLevel l r) :=
  retarget_ok p _ h rfl rfl rfl rfl rfl h.2.1

/-- A ramp step keeps the promises (R109). -/
theorem rampStep_ok (p : Port) (h : PortOk p) : PortOk p.rampStep := by
  obtain ⟨h1, h2, h3, h4, h5, h6, h7, h8, h9⟩ := id h
  unfold Port.rampStep
  split
  · rename_i hs
    have h6 := h6 hs
    simp only
    split
    · rename_i he
      refine ⟨h1, h2, h3, ?_⟩
      simp only [Port.enterOn]
      simp [h6.1, he]; omega
    · refine ⟨h1, h2, h3, ?_⟩
      simp [hs, h6.1]; omega
  · exact h

/-- A trip keeps the promises (R111). -/
theorem trip_ok (p : Port) (h : PortOk p) (ha : p.armed = true) : PortOk p.trip := by
  obtain ⟨h1, h2, h3, h4, h5, h6, h7, h8, h9⟩ := h
  have hd : p.demand = true := by
    simp only [Port.armed, Bool.or_eq_true, decide_eq_true_eq] at ha
    rcases ha with ha | ha
    · exact (h6 ha).1
    · exact (h7 ha).1
  unfold Port.trip
  simp only
  split
  · refine ⟨h1, h2, by simp only; omega, ?_⟩
    simp [hd]
  · refine ⟨h1, h2, h3, ?_⟩
    simp

/-- The end of a trip wait keeps the promises (R112). -/
theorem tripWaitEnd_ok (p : Port) (h : PortOk p) : PortOk p.tripWaitEnd := by
  obtain ⟨h1, h2, h3, h4, h5, h6, h7, h8, h9⟩ := id h
  unfold Port.tripWaitEnd
  split
  · rename_i hs
    have h8 := h8 hs
    split
    · rename_i hz
      refine ⟨h1, h2, h3, ?_⟩
      simp [Port.enterBarred, h8, hz]
    · rename_i hz
      refine ⟨h1, h2, h3, ?_⟩
      simp [Port.enterRamping, h8]; omega
  · exact h

/-- A completed on run keeps the promises (R114). -/
theorem onRunComplete_ok (p : Port) (h : PortOk p) : PortOk p.onRunComplete := by
  obtain ⟨h1, h2, h3, h4, h5, h6, h7, h8, h9⟩ := id h
  unfold Port.onRunComplete
  split
  · exact ⟨h1, h2, by simp, h4, h5, h6, h7, h8, h9⟩
  · exact h

/-- UNLATCH keeps the promises (R116). -/
theorem unlatch_ok (p : Port) (h : PortOk p) : PortOk p.unlatch := by
  obtain ⟨h1, h2, h3, h4, h5, h6, h7, h8, h9⟩ := id h
  unfold Port.unlatch
  split
  · rename_i hs
    split
    · rename_i hd
      exact actOnTarget_ok _ h1 h2 (by simp [Port.enterBarred]) (by simp [Port.enterBarred])
        (by simp [Port.enterBarred, hd]) (by simp [Port.enterBarred]) (by simp [Port.enterBarred])
    · rename_i hd
      exact enterIdle_ok p (by simpa using hd) h2 h1
  · exact h

/-- A new second keeps the promises (R110). -/
theorem newSecond_ok (p : Port) (h : PortOk p) : PortOk p.newSecond := h

/-- A millisecond keeps the promises. -/
theorem tick_ok (p : Port) (h : PortOk p) : PortOk p.tick := by
  unfold Port.tick
  split <;> exact h

/-- A port at the start of the core keeps the promises (R119). -/
theorem start_ok : PortOk Port.start := by decide

/-- A port read after a port is set. -/
theorem get_set {α : Type} (x : PerPort α) (i j : Fin 4) (a : α) :
    (x.set i a).get j = if j = i then a else x.get j := by
  fin_cases i <;> fin_cases j <;> rfl

/-- The ports' promises port by port. -/
theorem portsOk_iff (s : State) :
    PortsOk s ↔ (s.switches.switching = true → ∀ i, PortOk (s.switches.ports.get i)) := by
  refine ⟨fun h e i => ?_, fun h e => ⟨h e 0, h e 1, h e 2, h e 3⟩⟩
  obtain ⟨h0, h1, h2, h3⟩ := h e
  fin_cases i
  · exact h0
  · exact h1
  · exact h2
  · exact h3

/-- Acting on one port keeps the ports' promises when the action keeps that port's. -/
theorem onPort_ok (i : Fin 4) (f : Port → Port) (s : State) (h : PortsOk s)
    (hf : PortOk (s.switches.ports.get i) → PortOk (f (s.switches.ports.get i))) : PortsOk (onPort i f s) := by
  rw [portsOk_iff] at h ⊢
  unfold onPort
  split
  · rename_i hs
    intro _ j
    simp only [get_set]
    split
    · exact hf (h hs i)
    · exact h hs j
  · exact h

/-- Acting on every port keeps the ports' promises when the action keeps each port's. -/
theorem onPorts_ok (f : Port → Port) (s : State) (h : PortsOk s) (hf : ∀ p, PortOk p → PortOk (f p)) :
    PortsOk (onPorts f s) := by
  unfold onPorts
  split
  · rename_i hs
    intro _
    obtain ⟨h0, h1, h2, h3⟩ := h hs
    exact ⟨hf _ h0, hf _ h1, hf _ h2, hf _ h3⟩
  · exact h

/-- Giving the caps keeps the ports' promises (R105). -/
theorem giveCaps_ok (s : State) (h : PortsOk s) : PortsOk (giveCaps s) := by
  unfold giveCaps
  simp only
  split
  · rename_i hs
    intro _
    obtain ⟨h0, h1, h2, h3⟩ := h hs
    exact ⟨giveAccountCap_ok _ _ h0, giveAccountCap_ok _ _ h1, giveAccountCap_ok _ _ h2, giveAccountCap_ok _ _ h3⟩
  · exact h

/-- Giving the shed level keeps the ports' promises (R106). -/
theorem giveShedLevels_ok (s : State) (h : PortsOk s) : PortsOk (giveShedLevel s) := by
  unfold giveShedLevel
  split
  · rename_i hs
    intro _
    obtain ⟨h0, h1, h2, h3⟩ := h hs
    exact ⟨giveShedLevel_ok _ _ _ h0, giveShedLevel_ok _ _ _ h1, giveShedLevel_ok _ _ _ h2, giveShedLevel_ok _ _ _ h3⟩
  · exact h

end Sys2Proof.Machine
end

