-- ==== Sys2Proof/Laws/Requests.lean ====
section
/-! SUPPORT. What a request command comes to: refused by the link, kept by its owner, or answered. -/

namespace Sys2Proof.Machine

/-- The part with a request's frame held and the request handed to its owner (R168). -/
def handedOver (k : RequestKind) (tag : Byte) (body : List Byte) (s : State) : State :=
  { withFrame k tag body s with link.handed := s.link.handed ++ [s.link.nextId] }

/-- The command of a request kind is its frame's arrival. -/
theorem exec_requestOf (k : RequestKind) (tag : Byte) (body : List Byte) (s : State) :
    exec (requestOf k tag body) s = .next (finish .tokenFirst (receiveFrame tag k.code body s)) := by
  cases k <;> rfl

/-- An admitted request is served, and the event ends. -/
theorem exec_admitted (k : RequestKind) (tag : Byte) (body : List Byte) (s : State) (h : RoomFor body s)
    (ha : Admitted k s) :
    exec (requestOf k tag body) s =
      .next (finish .tokenFirst (serve k (arrivedRequest k tag body s.link) (handedOver k tag body s))) := by
  rw [exec_requestOf, receiveFrame_room k tag body s h, route_admitted k tag body s ha]
  rfl

/-- A refused request is answered with the refusal, and the event ends. -/
theorem exec_refused (k : RequestKind) (tag : Byte) (body : List Byte) (r : ReplyResult) (s : State)
    (h : RoomFor body s) (ha : generalRefusal s.provisioning k.code = some r) :
    exec (requestOf k tag body) s =
      .next (finish .tokenFirst
        (completeReply ⟨s.link.nextId, tag, k.code, [r.code], false⟩ (withFrame k tag body s))) := by
  rw [exec_requestOf, receiveFrame_room k tag body s h, route_refused k tag body r s ha]
  rfl

/-- A command on a line that is not read changes nothing but the units' settling (R165). -/
theorem receiveFrame_notRead (tag kind : Byte) (body : List Byte) (s : State) (h : s.link.receiving = false)
    (hr : s.link.reception = none) : receiveFrame tag kind body s = s := by
  have hc : ∀ bs, charactersArrive bs s = s := by
    intro bs
    unfold charactersArrive
    induction bs with
    | nil => rfl
    | cons b rest ih => simpa [characterArrives, h] using ih
  unfold receiveFrame
  rw [hc]
  simp [frameEnds, hr]

/-- A reply leaves the notice set. -/
@[simp] theorem completeReply_notices (r : Reply) (s : State) :
    (completeReply r s).link.notices = s.link.notices := by
  unfold completeReply
  split
  · rfl
  · rfl
  · simp only
    split
    · rfl
    · unfold Link.queueReply
      split <;> rfl

/-- Where a request has been handed over or refused, with other blocks changed and the units settled, its reply ends the
event: the blocks stay, and the request is answered (R169). -/
theorem finish_reply (k : RequestKind) (tag : Byte) (body reply : List Byte) (restarts : Bool) (s x : State)
    (hr : Ready body s) (hp : x.supply.power = s.supply.power) (hu : UnitsSettled x)
    (hx : x.link = { (handedOver k tag body s).link with notices := x.link.notices }
      ∨ x.link = { (withFrame k tag body s).link with notices := x.link.notices }) :
    ∃ t, finish .tokenFirst (completeReply ⟨s.link.nextId, tag, k.code, reply, restarts⟩ x) = t
      ∧ t = { x with link := t.link }
      ∧ Answered k tag body reply restarts s.link t.link
      ∧ t.link.notices = x.link.notices := by
  have hu' : UnitsSettled (completeReply ⟨s.link.nextId, tag, k.code, reply, restarts⟩ x) := by
    simpa [UnitsSettled] using hu
  rw [finish_unitsSettled _ _ hu']
  refine ⟨_, rfl, ?_, ?_, ?_⟩
  · unfold completeReply
    split <;> rfl
  · refine completeReply_answered k tag body reply restarts s x hr hp ?_
    have hrec := hr.1.1
    have hnone := hr.1.2.1
    rcases hx with hx | hx <;> rw [hx] <;>
      exact ⟨hrec, hnone, rfl, rfl, rfl, rfl, rfl, by simp [handedOver, withFrame], rfl, rfl, rfl⟩
  · simp

/-- A request that its owner keeps, with the units settled, ends the event without a reply. -/
theorem finish_kept (k : RequestKind) (tag : Byte) (body : List Byte) (s x : State) (o : DigestOrder)
    (hr : Ready body s) (hu : UnitsSettled x) (hx : x.link = (handedOver k tag body s).link) :
    ∃ t, finish o x = t ∧ t = { x with link := t.link } ∧ KeptByOwner k tag body s.link t.link
      ∧ t.link.notices = s.link.notices := by
  rw [finish_unitsSettled _ _ hu]
  refine ⟨_, rfl, rfl, ?_, ?_⟩
  · have hrec := hr.1.1
    have hnone := hr.1.2.1
    rw [hx]
    simp only [KeptByOwner, LinkKept, pump_receiving, pump_reception, pump_writePos, pump_cancelled, pump_overruns,
      pump_errors, pump_nextId, pump_handed, pump_replies, pump_completed, pump_held]
    exact ⟨⟨hrec, hnone, rfl, rfl, rfl, rfl, rfl⟩, rfl, rfl, rfl, rfl⟩
  · simp [hx, handedOver, withFrame]

/-- An answered request that changes nothing else. -/
theorem exec_answered (k : RequestKind) (tag : Byte) (body reply : List Byte) (restarts : Bool) (s : State)
    (hr : Ready body s) (ha : Admitted k s)
    (hs : serve k (arrivedRequest k tag body s.link) (handedOver k tag body s)
      = completeReply ⟨s.link.nextId, tag, k.code, reply, restarts⟩ (handedOver k tag body s)) :
    ∃ t, exec (requestOf k tag body) s = .next t ∧ Answered k tag body reply restarts s.link t.link
      ∧ OnlyLink s t := by
  obtain ⟨t, h1, h2, h3, h4⟩ := finish_reply k tag body reply restarts s (handedOver k tag body s) hr rfl hr.2.2.1.1
    (.inl rfl)
  refine ⟨t, ?_, h3, ?_, h4⟩
  · rw [exec_admitted k tag body s hr.1 ha, hs, h1]
  · rw [h2]; rfl

/-- An admitted request that its owner keeps, other blocks changed and the units settled, ends the event unanswered. -/
theorem exec_kept (k : RequestKind) (tag : Byte) (body : List Byte) (s x : State) (hr : Ready body s)
    (ha : Admitted k s) (hx : serve k (arrivedRequest k tag body s.link) (handedOver k tag body s) = x)
    (hl : x.link = (handedOver k tag body s).link) (hu : UnitsSettled x) :
    ∃ t, exec (requestOf k tag body) s = .next t ∧ KeptByOwner k tag body s.link t.link
      ∧ t.link.notices = s.link.notices ∧ t = { x with link := t.link } := by
  obtain ⟨t, h1, h2, h3, h4⟩ := finish_kept k tag body s x .tokenFirst hr hu hl
  exact ⟨t, by rw [exec_admitted k tag body s hr.1 ha, hx, h1], h3, h4, h2⟩

/-- An admitted request that is answered, other blocks changed and the units settled. -/
theorem exec_answeredWith (k : RequestKind) (tag : Byte) (body reply : List Byte) (restarts : Bool) (s x : State)
    (hr : Ready body s) (ha : Admitted k s)
    (hx : serve k (arrivedRequest k tag body s.link) (handedOver k tag body s)
      = completeReply ⟨s.link.nextId, tag, k.code, reply, restarts⟩ x)
    (hl : x.link = (handedOver k tag body s).link) (hp : x.supply.power = s.supply.power) (hu : UnitsSettled x) :
    ∃ t, exec (requestOf k tag body) s = .next t ∧ Answered k tag body reply restarts s.link t.link
      ∧ t.link.notices = s.link.notices ∧ t = { x with link := t.link } := by
  obtain ⟨t, h1, h2, h3, h4⟩ := finish_reply k tag body reply restarts s x hr hp hu (.inl (by rw [hl]))
  exact ⟨t, by rw [exec_admitted k tag body s hr.1 ha, hx, h1], h3, by rw [h4, hl]; rfl, h2⟩

/-! ## Keypad codes (R44, R180) -/

/-- The length of a number's digits. -/
theorem asciiDigits_length (n v : Nat) : (asciiDigits n v).length = n := by
  induction n with
  | zero => rfl
  | succ n ih => simp [asciiDigits, ih]

/-- The number that a number's digits stand for, after others. -/
theorem readDigits_asciiDigits (n v acc : Nat) :
    readDigits acc (asciiDigits n v) = some (acc * 10 ^ n + v % 10 ^ n) := by
  induction n generalizing acc with
  | zero => simp [asciiDigits, readDigits, Nat.mod_one]
  | succ n ih =>
    have hd : digitValue (BitVec.ofNat 8 (48 + v / 10 ^ n % 10)) = some (v / 10 ^ n % 10) := by
      have h1 : v / 10 ^ n % 10 < 10 := Nat.mod_lt _ (by omega)
      have h2 : (BitVec.ofNat 8 (48 + v / 10 ^ n % 10)).toNat = 48 + v / 10 ^ n % 10 := by
        rw [BitVec.toNat_ofNat]; omega
      simp only [digitValue, h2]
      split
      · congr 1; omega
      · omega
    simp only [asciiDigits, readDigits, hd, ih]
    congr 1
    have h : v % 10 ^ (n + 1) = 10 ^ n * (v / 10 ^ n % 10) + v % 10 ^ n := by
      rw [pow_succ, Nat.mod_mul]; ring
    rw [h, pow_succ]; ring

/-- The keypad form of a token number reads as the number (R180). -/
theorem readKeypad_asciiDigits (n : BitVec 66) : readKeypad (asciiDigits 20 n.toNat) = some n := by
  have h1 := n.isLt
  have h2 : n.toNat % 10 ^ 20 = n.toNat := Nat.mod_eq_of_lt (by omega)
  unfold readKeypad
  rw [if_pos (asciiDigits_length 20 n.toNat), readDigits_asciiDigits, h2]
  simp only [Nat.zero_mul, Nat.zero_add, if_pos h1]
  simp

end Sys2Proof.Machine
end

