-- ==== Sys2Proof/Laws/Slots.lean ====
section
/-! SUPPORT. The bytes of a journal slot: their lengths, and when the slot holds a valid entry. -/

namespace Sys2Proof.Machine

/-- A clock time's bytes. -/
@[simp] theorem timeBytes_length (t : ClockTime) : (timeBytes t).length = 4 := by simp [timeBytes]

/-- The snapshot's bytes, offsets 9 to 73 of Table 12-10. -/
@[simp] theorem accountBytes_length (a : Account) : (accountBytes a).length = 65 := by
  simp [accountBytes, PerPort.bytes]

/-- An anchor outcome's target, intervals and flag. -/
@[simp] theorem anchorBytes_length (o : AnchorOutcome) : (AnchorOutcome.bytes o).length = 7 := by
  cases o <;> simp [AnchorOutcome.bytes]

/-- The kind body is 15 bytes for every kind (R182). -/
@[simp] theorem kindBytes_length (k : EntryKind) : k.bytes.length = 15 := by
  cases k <;> simp [EntryKind.bytes]

/-- The bytes an entry's check is taken over. -/
@[simp] theorem entryFields_length (sequence : Nat) (kind : EntryKind) (time : ClockTime) (snapshot : Account) :
    (entryFields sequence kind time snapshot).length = 89 := by
  simp [entryFields]

/-- An entry fills 93 bytes (R182). -/
@[simp] theorem entryBytes_length (e : Entry) : (entryBytes e).length = 93 := by simp [entryBytes]

/-- Bytes that are all programmed are the programmed bytes. -/
@[simp] theorem programmedBytes_map_some (bytes : List Byte) : programmedBytes (bytes.map some) = some bytes := by
  induction bytes with
  | nil => rfl
  | cons b rest ih => simp [programmedBytes, ih]

/-- An entry written whole is valid exactly when its check is that of its fields, whatever follows its bytes (R182). -/
theorem valid_written (e : Entry) (rest : List (Option Byte)) :
    (Slot.entry e ((entryBytes e).map some ++ rest)).valid =
      if e.check = crc32 (entryFields e.sequence e.kind e.time e.snapshot) then some e else none := by
  have h : imageChecks ((entryBytes e).map some ++ rest)
      = decide (e.check = crc32 (entryFields e.sequence e.kind e.time e.snapshot)) := by
    have ht : ((entryBytes e).map some ++ rest).take 93 = (entryBytes e).map some :=
      List.take_left' (by simp)
    have hd : (entryBytes e).drop 89 = natBytes 4 e.check.toNat := List.drop_left' (by simp)
    have hf : (entryBytes e).take 89 = entryFields e.sequence e.kind e.time e.snapshot := List.take_left' (by simp)
    simp only [imageChecks, ht, programmedBytes_map_some, entryBytes_length, hd, hf, bytesNat_natBytes, decide_true,
      Bool.true_and]
    have hlt : e.check.toNat % 256 ^ 4 = e.check.toNat := Nat.mod_eq_of_lt e.check.isLt
    rw [hlt, decide_eq_decide]
    exact BitVec.toNat_inj
  simp [Slot.valid, h]

/-- A sealed entry written whole is valid. -/
theorem valid_sealed (sequence : Nat) (kind : EntryKind) (time : ClockTime) (snapshot : Account) :
    (Slot.entry (sealEntry sequence kind time snapshot) (slotImage (sealEntry sequence kind time snapshot))).valid
      = some (sealEntry sequence kind time snapshot) := by
  rw [slotImage, valid_written]
  simp [sealEntry]

end Sys2Proof.Machine
end

