-- ==== Sys2Proof/Laws/Tokens.lean ====
section
/-! SUPPORT. The token number of five fields has those fields (Table 12-5). -/

namespace Sys2Proof.Machine

/-- The kind of a token number is the kind it was made of. -/
@[simp] theorem tokenKind_tokenNumber (k : BitVec 4) (s : BitVec 16) (d : BitVec 10) (v : BitVec 14) (c : BitVec 22) :
    tokenKind (tokenNumber k s d v c) = k.toNat := by
  unfold tokenKind tokenNumber
  congr 1
  ext i hi
  simp only [BitVec.getElem_extractLsb', BitVec.getLsbD_append]
  grind

/-- The serial of a token number is the serial it was made of. -/
@[simp] theorem tokenSerial_tokenNumber (k : BitVec 4) (s : BitVec 16) (d : BitVec 10) (v : BitVec 14) (c : BitVec 22) :
    tokenSerial (tokenNumber k s d v c) = s.toNat := by
  unfold tokenSerial tokenNumber
  congr 1
  ext i hi
  simp only [BitVec.getElem_extractLsb', BitVec.getLsbD_append]
  grind

/-- The issue day field of a token number is the one it was made of. -/
@[simp] theorem tokenDayField_tokenNumber (k : BitVec 4) (s : BitVec 16) (d : BitVec 10) (v : BitVec 14)
    (c : BitVec 22) : tokenDayField (tokenNumber k s d v c) = d.toNat := by
  unfold tokenDayField tokenNumber
  congr 1
  ext i hi
  simp only [BitVec.getElem_extractLsb', BitVec.getLsbD_append]
  grind

/-- The value of a token number is the value it was made of. -/
@[simp] theorem tokenValue_tokenNumber (k : BitVec 4) (s : BitVec 16) (d : BitVec 10) (v : BitVec 14) (c : BitVec 22) :
    tokenValue (tokenNumber k s d v c) = v.toNat := by
  unfold tokenValue tokenNumber
  congr 1
  ext i hi
  simp only [BitVec.getElem_extractLsb', BitVec.getLsbD_append]
  grind

/-- The check of a token number is the check it was made of. -/
@[simp] theorem tokenCheck_tokenNumber (k : BitVec 4) (s : BitVec 16) (d : BitVec 10) (v : BitVec 14) (c : BitVec 22) :
    tokenCheck (tokenNumber k s d v c) = c := by
  unfold tokenCheck tokenNumber
  ext i hi
  simp only [BitVec.getElem_extractLsb', BitVec.getLsbD_append]
  grind

end Sys2Proof.Machine
end

