-- ==== Sys2Proof/Tests/Slice0.lean ====
section
/-! SUPPORT. Tests: ill-formed commands, the manual's worked cases, one step per family of commands, and for every statement with hypotheses a state that meets them. -/

-- One proof at a time: many at once wait on one another and use more threads than the checks allow.
set_option Elab.async false

open Sys2Proof Sys2Proof.Machine

namespace Sys2Proof.Tests

/-! ## Well-formedness -/

/-- A body of 256 bytes is more than a frame carries (R179). -/
theorem test_wf_long_body :
    ([Instr.status 1 (.replicate 256 0), .notices 1 (.replicate 256 0), .enterToken 1 (.replicate 256 0),
      .port 1 (.replicate 256 0), .unlatch 1 (.replicate 256 0), .meter 1 (.replicate 256 0),
      .history 1 (.replicate 256 0), .carry 1 (.replicate 256 0), .handoff 1 (.replicate 256 0),
      .receipts 1 (.replicate 256 0), .provision 1 (.replicate 256 0), .identity 1 (.replicate 256 0),
      .clock 1 (.replicate 256 0), .restart 1 (.replicate 256 0)].all (fun c => !c.wellFormed)) = true := by
  decide +kernel

/-- An erase speaks of at most the 60 slots of its sector. -/
theorem test_wf_long_erase :
    ([Instr.sectorEraseEnd false (.replicate 61 .kept), .supplyLoss ⟨true, .replicate 61 .kept⟩,
      .clockDomainPowerLoss ⟨true, .replicate 61 .kept⟩].all (fun c => !c.wellFormed)) = true := by
  decide +kernel

/-- A body of 255 bytes and an erase of 60 slots are well formed. -/
theorem test_wf_longest :
    (Instr.status 1 (.replicate 255 0)).wellFormed = true
      ∧ (Instr.sectorEraseEnd false (.replicate 60 .kept)).wellFormed = true := by
  decide +kernel

/-! ## The manual's worked cases -/

/-- Tariff 3 of Section 1.2.1. -/
def tariff3 : Tariff :=
  ⟨3, 500, ⟨0, 0, 400, 2000⟩, 20000, 2, 300, ⟨true, true, false, false⟩, 1500, .same true, 3, .calendar⟩

/-- Tariff 5 of Section 2.3.1. -/
def tariff5 : Tariff :=
  ⟨5, 300, ⟨0, 0, 300, 1500⟩, 10000, 1, 200, ⟨true, false, false, false⟩, 800, ⟨true, true, true, false⟩, 2, .service⟩

/-- A record with the two tariffs of the worked cases and others that are plain. -/
def kit : Settings where
  kitNumber := 70112
  district := 12
  kitKey := 17
  districtKey := 23
  initialIndex := 0
  initialCredit := 5000
  initialTime := ⟨900, 600⟩
  currentLimits := .same 2500
  shedRanks := ⟨1, 2, 3, 3⟩
  f1 := 12000
  f2 := 11700
  f3 := 11400
  hysteresis := 300
  cutoffIndex := 2
  restartMargin := 800
  acceptAge := 60
  rcTrim := -3
  tariffs := [tariff3, tariff5, { tariff3 with number := 7 }, { tariff3 with number := 8 }, { tariff3 with number := 9 },
    { tariff3 with number := 10 }, { tariff3 with number := 11 }, { tariff3 with number := 12, standing := 0 }]

/-- The account of Table 1-4 before 19:45. -/
def before1945 : Account :=
  { Account.unprovisioned with
    state := .active, balance := 37, graceArmed := true, rs := 60, re := 700000, allowance := 3000
    activeTariff := 3, ct := 12000, ht := 11963, marks := ⟨100, 200, 300, 1474240⟩, lastTally := ⟨900, 1170⟩ }

/-- The account of Table 1-4 after 19:45. -/
def after1945 : Account := tallyAccount tariff3 ⟨1300, 200, 2800, 1489280⟩ ⟨900, 1185⟩ before1945

/-- The account of Table 1-4 after 20:00. -/
def after2000 : Account := tallyAccount tariff3 ⟨2500, 200, 2800, 1504320⟩ ⟨900, 1200⟩ after1945

/-- Table 1-4, after 19:45. -/
theorem test_table_1_4_1945 :
    after1945 = { before1945 with
      balance := 3, rs := 80, re := 780000, allowance := 0, ht := 11997
      marks := ⟨1300, 200, 2800, 1489280⟩, lastTally := ⟨900, 1185⟩ } := by
  decide +kernel

/-- Table 1-4, after 20:00. -/
theorem test_table_1_4_2000 :
    after2000.state = .grace ∧ after2000.balance = 0 ∧ after2000.debt = 33 ∧ after2000.graceBudget = 2880
      ∧ after2000.graceArmed = false ∧ after2000.rs = 4 ∧ after2000.re = 860000 ∧ after2000.ht = 12033 := by
  decide +kernel

/-- Table 1-4, after the credit of 20:07. -/
theorem test_table_1_4_credit :
    ((creditAccount tariff3 1000 after2000).state, (creditAccount tariff3 1000 after2000).balance,
      (creditAccount tariff3 1000 after2000).debt, (creditAccount tariff3 1000 after2000).graceBudget,
      (creditAccount tariff3 1000 after2000).graceArmed, (creditAccount tariff3 1000 after2000).ct)
      = (.active, 967, 0, 0, true, 13000) := by
  decide +kernel

/-- Section 1.3.1: the warm start after holdover, n = 126. -/
theorem test_warm_start_intervals :
    (warmIntervals tariff3 ⟨900, 1365⟩ ⟨902, 380⟩, latestTallyPoint ⟨902, 380⟩,
      (catchUpCharge tariff3 126 { before1945 with balance := 1200, rs := 30 }).balance,
      (catchUpCharge tariff3 126 { before1945 with balance := 1200, rs := 30 }).rs) = (126, ⟨902, 375⟩, 544, 54) := by
  decide +kernel

/-- Section 2.3.1: at midnight a cheaper tariff locks a GRACE account whose debt exceeds its limit. -/
theorem test_cheaper_tariff :
    ((tallyAndBoundary kit ⟨700, 350, 300, 1474240⟩ ⟨950, 0⟩ { before1945 with
        state := .grace, balance := 0, debt := 1190, graceBudget := 1500, graceArmed := false, rs := 40, re := 200000
        allowance := 0, stagedTariff := some 5 }).acct)
      = { before1945 with
        state := .locked, balance := 0, debt := 1195, graceBudget := 0, graceArmed := false, rs := 60, re := 200000
        allowance := 10000, stagedTariff := none, activeTariff := 5, ht := 11968, marks := ⟨700, 350, 300, 1474240⟩
        lastTally := ⟨950, 0⟩ } := by
  decide +kernel

/-- The account of Section 2.4.1. -/
def staged5 : Account :=
  { before1945 with balance := 2000, rs := 10, stagedTariff := some 5, lastTally := ⟨1000, 840⟩ }

/-- Section 2.4.1: ADD_DAYS of 10 days issued on day 1,002, while the clock stands at day 1,000, 14:05. -/
theorem test_anchor_across_staged_tariff :
    (match evaluate kit ⟨1000, 845, 0, true, .crystal, 0, .running, 0, 0⟩ false staged5 .addDays
        (tokenNumber 2 301 1002 10 0) with
      | .ok t => decide (t.body.outcome = .move ⟨1002, 0⟩ 136 true ∧ t.snapshot.balance = 4292 ∧ t.snapshot.rs = 42
          ∧ t.snapshot.ht = 12671 ∧ t.snapshot.activeTariff = 5 ∧ t.snapshot.allowance = 10000
          ∧ t.snapshot.lastTally = ⟨1002, 0⟩ ∧ t.tariffApplied = true)
      | .error _ => false) = true := by
  decide +kernel

/-- Section 3.4.3: the run of tokens through the replay window. -/
theorem test_replay_window :
    Window.verdict 38 ⟨40, [12, 25, 38]⟩ = .duplicate ∧ Window.verdict 40 ⟨40, [12, 25, 38]⟩ = .duplicate
      ∧ Window.mark 30 ⟨40, [12, 25, 38]⟩ = ⟨40, [12, 25, 30, 38]⟩
      ∧ Window.verdict 8 ⟨40, [12, 25, 30, 38]⟩ = .tooOld
      ∧ Window.mark 41 ⟨40, [12, 25, 30, 38]⟩ = ⟨41, [12, 25, 30, 38, 40]⟩
      ∧ Window.mark 80 ⟨41, [12, 25, 30, 38, 40]⟩ = ⟨80, []⟩ ∧ Window.mark 49 ⟨80, []⟩ = ⟨80, [49]⟩
      ∧ Window.verdict 48 ⟨80, [49]⟩ = .tooOld := by
  decide +kernel

/-- Section 3.4.4: one clock day, the fields of the worked case, in both conditions. -/
theorem test_issue_days :
    ([976, 983, 950, 986].map (resolveIssueDay ⟨2000, 0, 0, true, .rc, 0, .running, 0, 0⟩),
      resolveIssueDay ⟨2000, 0, 0, true, .rc, 0, .lost, 0, 0⟩ 986,
      issueExpired ⟨2000, 0, 0, true, .rc, 0, .running, 0, 0⟩ 60 986,
      issueExpired ⟨2000, 0, 0, true, .rc, 0, .running, 0, 0⟩ 60 1940,
      issueExpired ⟨2000, 0, 0, true, .rc, 0, .running, 0, 0⟩ 60 1939)
      = ([2000, 2007, 1974, 986], 2010, true, false, true) := by
  decide +kernel

/-- Section 4.5: a backward SET_TIME holds the clock for 35 minutes, a second one for 20. -/
theorem test_clock_holds :
    (DayClock.makeAnchor true (setTimeAnchor tariff3 ⟨1300, 1120⟩ ⟨1300, 1085⟩)
        ⟨1300, 1120, 20, true, .crystal, 0, .running, 0, 9⟩,
      DayClock.makeAnchor true (setTimeAnchor tariff3 ⟨1300, 1120⟩ ⟨1300, 1100⟩)
        ⟨1300, 1120, 20, true, .crystal, 0, .running, 25, 0⟩)
      = (⟨1300, 1120, 20, true, .crystal, 0, .running, 35, 0⟩, ⟨1300, 1120, 20, true, .crystal, 0, .running, 20, 0⟩) := by
  decide +kernel

/-- Section 4.5: a forward SET_TIME across midnight charges 77 intervals. -/
theorem test_forward_set_time :
    setTimeAnchor tariff3 ⟨1300, 410⟩ ⟨1301, 130⟩ = .move ⟨1301, 130⟩ 77 true := by
  decide +kernel

/-- Table 5-2: accumulation on port 1. -/
theorem test_table_5_2 :
    ([(12480, 312), (12470, 318), (12470, 15), (12460, 9300)].foldl
      (fun (m : MeterPort) x => m.sample x.1 x.2 true) ⟨48211, 3210000, 0, .clear, 0⟩)
      = ⟨48241, 2749220, 8000, .clear, 0⟩ := by
  decide +kernel

/-- Table 5-6: the sense judgement, with the output at 0, over readings of 140, 160, 90, 130, 130, 130, 520, 110 and 0 mA. -/
theorem test_table_5_6 :
    (([140, 160, 90, 130, 130, 130, 520, 110, 0].foldl
      (fun (r : List (SenseState × Nat) × MeterPort) v =>
        (r.1 ++ [((r.2.judge v false).sense, (r.2.judge v false).senseRun)], r.2.judge v false)) ([], .start)).1)
      = [(.clear, 1), (.clear, 2), (.clear, 0), (.clear, 1), (.clear, 2), (.fault, 0), (.fault, 0), (.fault, 0),
        (.clear, 0)] := by
  decide +kernel

/-- Port 2 of Table 6-5 before the first request. -/
def port2 : Port := { Port.start with accountCap := 1000, shedCap := 1000 }

/-- Table 6-5: port 2 through the sequence. -/
theorem test_table_6_5 :
    ([Port.setDemand true 1000, Port.rampStep, Port.rampStep, Port.setDemand true 300, Port.giveShedLevel 2 2,
      Port.giveShedLevel 1 2, Port.rampStep, Port.rampStep].foldl
        (fun (r : List (PortState × Nat) × Port) f => (r.1 ++ [((f r.2).state, (f r.2).duty)], f r.2)) ([], port2)).1
      = [(.ramping, 0), (.ramping, 250), (.ramping, 500), (.on, 300), (.barred, 0), (.ramping, 0), (.ramping, 250),
        (.on, 300)] := by
  decide +kernel

/-- Table 7-3: the shed level through seven readings. -/
theorem test_table_7_3 :
    ([12100, 11950, 11650, 11350, 11800, 12050, 12300].foldl
      (fun (r : List Nat) v => r ++ [shedLevelOf [12000, 11700, 11400] 300 (r.getLast?.getD 0) v]) [])
      = [0, 1, 2, 3, 2, 1, 0] := by
  decide +kernel

/-- Section 10.2.1: with tag 2 held from position 5 and the write position at 390 the free run is 127; with tag 3 the oldest
it is 317. -/
theorem test_busy_ring :
    (({ Link.start true with held := [⟨0, 5, []⟩, ⟨1, 195, []⟩], writePos := 390 } : Link).freeRun,
      ({ Link.start true with held := [⟨1, 195, []⟩], writePos := 390 } : Link).freeRun,
      (Link.start true).freeRun) = (127, 317, 512) := by
  decide +kernel

/-- Table 9-7: the order of the HANDOFF to kit 70,450 with count 3. -/
theorem test_table_9_7 :
    (handoffList (some 70450) 3
      [⟨71003, tokenNumber 1 14 0 0 0, 0, 1545, 4, 0, 1⟩, ⟨70450, tokenNumber 1 91 0 0 0, 0, 1575, 1, 0, 0⟩,
        ⟨71220, tokenNumber 1 203 0 0 0, 0, 1580, 1, 0, 1⟩, ⟨72000, tokenNumber 1 7 0 0 0, 0, 1590, 3, 0, 0⟩,
        ⟨72010, tokenNumber 1 9 0 0 0, 0, 1560, 5, 0, 0⟩]).map (fun r => (r.destination, tokenSerial r.token))
      = [(70450, 91), (72000, 7), (72010, 9)] := by
  decide +kernel

/-- The published check values of the two CRCs R179 and R182 describe, over the digits 1 to 9 (UNVERIFIED by the manual,
which prints none). -/
theorem test_crc_check_values :
    crc16 [49, 50, 51, 52, 53, 54, 55, 56, 57] = 0x29B1#16
      ∧ crc32 [49, 50, 51, 52, 53, 54, 55, 56, 57] = 0x0376E6E7#32 := by
  decide +kernel

/-- Table 3-5: the wait after the fifth keypad BAD_CHECK and after those that follow it. -/
theorem test_penalty_waits :
    ((List.range 12).foldl (fun (r : List Nat × Penalty) _ =>
      (r.1 ++ [r.2.advance.waitLength], r.2.advance)) ([], Penalty.zero)).1
      = [0, 0, 0, 0, 1, 2, 4, 8, 16, 32, 64, 64] := by
  decide +kernel

/-! ## States for the tests and the witnesses -/

/-- The account of a part in ACTIVE. -/
def active : Account :=
  { Account.unprovisioned with
    state := .active, balance := 20000, graceArmed := true, allowance := 20000, activeTariff := 3, ct := 20000
    lastTally := ⟨1300, 600⟩ }

/-- A provisioned part in RUN at day 1,300, 10:00:00, its line idle and its journal READY. -/
def running : State :=
  { State.reset with
    provisioning := ⟨.written kit (recordCheck kit), .valid, .idle, none⟩
    domain := ⟨true, ⟨1300, 600, 0, true, .crystal, 0, .running, 0, 0⟩, 0, .zero, 3000, .good⟩
    account := ⟨active, false, none, true⟩
    meter := { Meter.start with sampling := true }
    supply := { Supply.start .run with battery := 13000 }
    journal := { Journal.start with nextSlot := 5, nextSequence := 9 } }

/-- The same part with its core off. -/
def asleep : State := coreOff running

/-- The same part in STARTING. -/
def starting : State := { running with supply := { Supply.start .starting with battery := 13000 }, meter := .start }

/-- A part whose record is blank, in RUN. -/
def blank : State := { State.reset with supply := .start .run, domain := running.domain }

/-- The journal erases a sector, so that it begins no other work. -/
def erasing : State := { running with journal := { running.journal with op := .erase 3 } }

/-- A sample with every reading in range. -/
def sample : Sample := ⟨13000, ⟨19, 20, 8000, 8001⟩, 2450, .minuteLast⟩

/-- The next state of a command that has one. -/
def after (c : Instr) (s : State) : State :=
  match exec c s with
  | .next t => t
  | _ => s

/-! ## One step of each family of commands -/

/-- A CLOCK frame arriving byte by byte is answered as one that arrives whole (R165 to R168). -/
theorem test_frame_by_characters :
    (after .frameEnd ((frameBytes 9 13 []).foldl (fun s b => after (.characterReceived b true) s) running)).link.replies
      = [⟨0, 9, 13, [0, 5, 20, 2, 88, 0, 1, 0, 0, 0, 0, 0, 0, 0, 0, 253], false⟩] := by
  decide +kernel

/-- The reply to NOTICES is on the line as a frame with the request's tag and kind (R179). -/
theorem test_notices_reply :
    (after (.notices 9 []) { running with link := { running.link with notices := 0x1000#16 } }).link.onLine
      = some (frameBytes 9 2 [0, 16, 0]) := by
  decide +kernel

/-- A keypad code of zeros has serial 0, which is BAD_FORMAT (R50). -/
theorem test_enter_token_serial_zero :
    (after (.enterToken 9 (asciiDigits 20 0)) running).link.replies = [⟨0, 9, 3, [18, 0, 0, 0], false⟩] := by
  decide +kernel

/-- PORT asks ON at 1,000 on a port whose caps are 1,000: it is RAMPING with the step timer at 100 ms (R107, R109). -/
theorem test_port_on :
    ((after (.port 9 [2, 1, 3, 232]) (running.withPort 2 port2)).switches.ports.p2.state,
      (after (.port 9 [2, 1, 3, 232]) (running.withPort 2 port2)).switches.ports.p2.target,
      (after (.port 9 [2, 1, 3, 232]) (running.withPort 2 port2)).switches.ports.p2.stepTimer)
      = (.ramping, 1000, 100) := by
  decide +kernel

/-- The body of an empty CARRY is answered OK with both counts (R155). -/
theorem test_carry_empty : (after (.carry 9 [0]) running).link.replies = [⟨0, 9, 8, [0, 0, 0], false⟩] := by
  decide +kernel

/-- IDENTITY on a blank part reports BLANK and no numbers (R178, R183). -/
theorem test_identity_blank :
    ((after (.identity 9 []) blank).link.replies.map (fun r => r.body.take 8)) = [[0, 0, 0, 0, 0, 0, 0, 0]] := by
  decide +kernel

/-- PROVISION with the 240 bytes of a record in range programs exactly that record (R176, R183). -/
theorem test_provision_programs :
    (serveProvision ⟨0, 9, 11, settingsBytes kit⟩ blank).provisioning.phase = .programming kit := by
  decide +kernel

/-- A second with 12,480 mV and 312 mA joins port 0's residue (R94). -/
theorem test_second_accumulates :
    (after (.secondEvent ⟨12480, ⟨312, 0, 0, 0⟩, 3000, .minuteLast⟩) running).meter.ports.p0
      = ⟨1, 293760, 312, .clear, 1⟩ := by
  decide +kernel

/-- The last second of 10:14 brings the tally point of 10:15, with a standing charge of 5 cu (R7, R74). -/
theorem test_tally_point :
    ((after (.secondEvent ⟨13000, .same 0, 3000, .minuteLast⟩)
        { running with domain := { running.domain with clock :=
          { running.domain.clock with minute := 614, second := 59 } } }).account.acct.balance,
      (after (.secondEvent ⟨13000, .same 0, 3000, .minuteLast⟩)
        { running with domain := { running.domain with clock :=
          { running.domain.clock with minute := 614, second := 59 } } }).account.acct.lastTally) = (19995, ⟨1300, 615⟩) := by
  decide +kernel

/-- The fourth trip latches a port (R111). -/
theorem test_fourth_trip_latches :
    ((after (.trip 1 2501) (running.withPort 1 { port2 with state := .on, demand := true, retry := 3 })).switches.ports.p1.state,
      (after (.trip 1 2501) (running.withPort 1 { port2 with state := .on, demand := true, retry := 3 })).link.notices)
      = (.latched, 0x0180#16) := by
  decide +kernel

/-- A TALLY entry of sequence 9, at day 1,300, 10:00, with its check. -/
def tallyEntry : Entry := sealEntry 9 .tally ⟨1300, 600⟩ active

/-- The slot of a write that passes its verify holds 96 bytes: sequence, kind and time at offsets 0, 4 and 5, the state and
the balance at 9 and 10, the check at 89, and the last three erased (R138, R182, Table 12-10). -/
theorem test_write_passes :
    (match flashRead (after (.journalWriteEnd true) { running with journal := { running.journal with
          queue := [.tally false], op := .write { tallyEntry with check := 0x01020304 } } }).flash 5 with
      | .entry _ image => decide (image.length = 96
          ∧ image.take 14 = [some 0, some 0, some 0, some 9, some 3, some 5, some 20, some 2, some 88, some 2, some 0, some 0,
            some 78, some 32] ∧ image.drop 89 = [some 1, some 2, some 3, some 4, none, none, none])
      | .damaged => false
      | .blank => false) = true := by
  decide +kernel

/-- A slot whose check does not match its bytes holds no valid entry, and its last three bytes take no part (R182). -/
theorem test_slot_check :
    (Slot.entry tallyEntry (slotImage tallyEntry)).valid = some tallyEntry
      ∧ (∀ e : Entry, e = { tallyEntry with check := tallyEntry.check + 1 } → (Slot.entry e (slotImage e)).valid = none)
      ∧ (Slot.entry tallyEntry ((entryBytes tallyEntry).map some ++ [some 0, none, some 255])).valid = some tallyEntry := by
  refine ⟨valid_sealed .., ?_, ?_⟩
  · rintro e rfl
    rw [slotImage, valid_written]
    simp [tallyEntry, sealEntry]
  · rw [valid_written]
    simp [tallyEntry, sealEntry]

/-- A minute that arrives with a reading below cutoff, after the sample: the second is never charged (R93). -/
theorem test_holdover_second_not_charged :
    [SecondOrder.minuteMiddle, .minuteLast].map (fun order =>
      let t := after (.secondEvent ⟨10599, .same 8000, 3000, order⟩)
        { running with domain := { running.domain with clock :=
          { running.domain.clock with minute := 614, second := 59 } } }
      (t.account.acct.balance, t.supply.power, t.domain.clock.minute))
      = [(20000, .holdover, 615), (20000, .holdover, 615)] := by
  decide +kernel

/-- A penalty wait falls by one second at its end and no more (R67). -/
theorem test_penalty_wait_end :
    [3840, 2, 1, 0].map (fun n => (after .penaltyWaitEnd { running with domain :=
      { running.domain with penalty := ⟨12, 64, n⟩ } }).domain.penalty.waitRemaining) = [3840, 2, 0, 0] := by
  decide +kernel

/-- With the source RC and no edge for 4 ms the qualification is 0; an edge starts it again (R77). -/
theorem test_absent_crystal :
    ([false, false, false, false, false, true, false].foldl (fun (r : List Nat × ClockDomain) edge =>
        (r.1 ++ [(r.2.tick edge).clock.qualification], r.2.tick edge))
      ([], { running.domain with clock := { running.domain.clock with source := .rc, qualification := 900 } })).1
      = [901, 902, 903, 0, 0, 1, 2] := by
  decide +kernel

/-- The core is off after a loss of supply, and a second at the restart level powers it again (R126, R127). -/
theorem test_wake :
    ((after (.supplyLoss ⟨true, []⟩) running).supply.power,
      (after (.secondEvent ⟨11400, .same 0, 3000, .minuteLast⟩) asleep).supply.power,
      (after (.secondEvent ⟨11399, .same 0, 3000, .minuteLast⟩) asleep).supply.power) = (.off, .starting, .off) := by
  decide +kernel

/-- No word spells a command: the opcode table gives its rows no bits. -/
theorem test_no_word : decodeTableWord 8 1 = none ∧ State.reset.withFetchWord 8 1 = State.reset := by
  decide +kernel

/-! ## Witnesses: states that meet the hypotheses of the statements, each clause at a boundary of its range -/

/-- The part with four replies in the transmit list, the first on the line. -/
def full : State :=
  { running with link := { running.link with
      transmit := [.reply ⟨0, 1, 1, [], false⟩, .reply ⟨1, 1, 1, [], false⟩, .reply ⟨2, 1, 1, [], false⟩,
        .reply ⟨3, 1, 1, [], false⟩]
      onLine := some [], nextId := 4 } }

/-- The part with one port as given. -/
def withPort2 (p : Port) : State := running.withPort 2 p

/-- A PROVISION being programmed. -/
def programming : State :=
  { blank with provisioning := ⟨.blank, .programming, .programming kit, some ⟨0, 9, 11, []⟩⟩ }

theorem witness_exec_answers_next : ∃ t, exec (.status 9 []) running = .next t := ⟨_, rfl⟩

theorem witness_reset_invariants :
    PortOk Port.start ∧ FlashWf State.reset.flash ∧ Capacity State.reset ∧ IdsOk State.reset ∧ PowerOk State.reset
      ∧ RelayOk State.reset.relay ∧ Settled State.reset := by
  and_intros <;> decide +kernel

theorem witness_account_rules :
    AccountsOk { running with pending := [.trip 0 1] }
      ∧ ∃ t, step { running with pending := [.trip 0 1] } = .next t := by
  refine ⟨⟨?_, trivial, by decide +kernel, ?_, trivial, trivial, ?_, trivial⟩, _, rfl⟩
  · show SettingsOk kit
    decide +kernel
  · intro q h; cases h
  · intro q h; cases h

theorem witness_ports_keep :
    PortOk { port2 with state := .on, demand := true, demandDuty := 1000, target := 1000, duty := 1000 }
      ∧ ∃ t, step { withPort2 port2 with pending := [.trip 0 1] } = .next t :=
  ⟨by decide +kernel, _, rfl⟩

theorem witness_ports_ok : PortsOk (withPort2 port2) := by
  intro _
  and_intros <;> decide +kernel

theorem witness_small_invariants :
    FlashWf running.flash ∧ Capacity full ∧ IdsOk full ∧ PowerOk running ∧ RelayOk running.relay ∧ full.link.replyCount = 4 := by
  and_intros <;> decide +kernel

/-- Bundles: no item, and items at both ends of their ranges. -/
theorem witness_bundles :
    ∀ x ∈ [RelayItem.token 1 0 0 0 0 0, .token 4294967294 (BitVec.allOnes 66) 65535 65535 7 (BitVec.allOnes 32),
        .receipt 1 1 0 0, .receipt 4294967294 65535 65535 (BitVec.allOnes 32)],
      (match x with
        | .token dest _ issue expiry hop _ =>
          1 ≤ dest ∧ dest ≤ 4294967294 ∧ issue < 65536 ∧ expiry < 65536 ∧ hop ≤ 7
        | .receipt kit serial created _ =>
          1 ≤ kit ∧ kit ≤ 4294967294 ∧ 1 ≤ serial ∧ serial < 65536 ∧ created < 65536) := by
  intro x h
  simp only [List.mem_cons, List.not_mem_nil, or_false] at h
  rcases h with rfl | rfl | rfl | rfl <;> decide

theorem witness_settings :
    kit.kitNumber < 2 ^ 32 ∧ kit.district < 2 ^ 16 ∧ kit.initialIndex < 2 ^ 8 ∧ kit.initialCredit < 2 ^ 32
      ∧ kit.initialTime.day < 2 ^ 16 ∧ kit.initialTime.minute < 2 ^ 16
      ∧ (∀ i, kit.currentLimits.get i < 2 ^ 16 ∧ kit.shedRanks.get i < 2 ^ 8)
      ∧ kit.f1 < 2 ^ 16 ∧ kit.f2 < 2 ^ 16 ∧ kit.f3 < 2 ^ 16 ∧ kit.hysteresis < 2 ^ 16 ∧ kit.cutoffIndex < 2 ^ 8
      ∧ kit.restartMargin < 2 ^ 16 ∧ kit.acceptAge < 2 ^ 8 ∧ -128 ≤ kit.rcTrim ∧ kit.rcTrim ≤ 127
      ∧ kit.tariffs.length = 8
      ∧ (∀ t ∈ kit.tariffs, t.number < 2 ^ 8 ∧ t.standing < 2 ^ 24 ∧ (∀ i, t.prices.get i < 2 ^ 16)
        ∧ t.allowance < 2 ^ 24 ∧ t.graceDays < 8 ∧ t.graceDuty < 2 ^ 16 ∧ t.debtLimit < 2 ^ 16 ∧ t.catchUpCap < 8) := by
  and_intros <;> decide +kernel

theorem witness_status_layout :
    running.account.loaded = true ∧ State.reset.account.loaded = false ∧ running.tokens.lastRelay = none
      ∧ active.stagedTariff = none ∧ staged5.stagedTariff = some 5 ∧ running.supply.power = .run
      ∧ starting.supply.power = .starting
      ∧ ({ running.tokens with lastRelay := some ⟨3, 65535, .badCheck⟩ } : TokenUnit).lastRelay
          = some ⟨3, 65535, .badCheck⟩ := by
  and_intros <;> decide +kernel

theorem witness_turned_away :
    (asleep.link.receiving = false ∧ asleep.link.reception = none ∧ Settled asleep)
      ∧ (Ready (.replicate 255 0) programming ∧ programming.provisioning.inProgress = true)
      ∧ (Ready [] blank ∧ blank.provisioning.inProgress = false ∧ blank.provisioning.condition = .blank)
      ∧ (Ready [] { running with provisioning := ⟨.spoiled, .damaged, .idle, none⟩ })
      ∧ (Ready [0] running ∧ Admitted .status running ∧ Admitted .notices running ∧ Admitted .meter running
        ∧ Admitted .identity running ∧ Admitted .clock running ∧ Admitted .restart running)
      ∧ (Ready [] full ∧ ¬full.link.replyCount < 4) := by
  and_intros <;> decide +kernel

/-- The requests answered at their arrival: a line that is read, on a part that admits them. -/
theorem witness_reports : Ready [] running ∧ Admitted .notices running ∧ Admitted .clock running := by decide +kernel

theorem witness_enter_token_refused :
    Ready (.replicate 19 48) running ∧ Admitted .enterToken running
      ∧ Ready (.replicate 19 48 ++ [47]) running ∧ Ready (.replicate 19 48 ++ [58]) running
      ∧ Ready (asciiDigits 20 (2 ^ 66)) running
      ∧ 2 ^ 66 ≤ (asciiDigits 20 (2 ^ 66)).foldl (fun n b => n * 10 + (b.toNat - 48)) 0
      ∧ (Ready (asciiDigits 20 (2 ^ 66 - 1))
          { starting with tokens := { starting.tokens with intake := .replicate 4 ⟨.relay, 0⟩ } })
      ∧ Admitted .enterToken starting := by
  and_intros <;> decide +kernel

theorem witness_enter_token_taken :
    (Ready (asciiDigits 20 5) starting ∧ Admitted .enterToken starting ∧ starting.tokens.intake.length < 4
        ∧ starting.supply.power ≠ .run)
      ∧ (Ready (asciiDigits 20 5)
          { running with tokens := { running.tokens with intake := .replicate 3 ⟨.relay, 0⟩, service := .inFlight } })
      ∧ (Ready (asciiDigits 20 0) running ∧ running.supply.power = .run ∧ running.tokens.service = .idle
        ∧ tokenSerial 0 = 0 ∧ tokenSerial (tokenNumber 1 1 0 0 0) ≠ 0 ∧ running.domain.penalty.waitRemaining = 0)
      ∧ (Ready (asciiDigits 20 (tokenNumber 1 1 0 0 0).toNat)
          { running with domain := { running.domain with penalty := ⟨5, 1, 1⟩ } }) := by
  and_intros <;> decide +kernel

theorem witness_port :
    (Ready [3, 1, 255, 255] running ∧ Admitted .port running ∧ running.switches.switching = true)
      ∧ Ready [0, 0, 0] running ∧ Ready [4, 0, 0, 0] running ∧ 4 ≤ fieldAt [4, 0, 0, 0] 0 1
      ∧ Ready [0, 2, 0, 0] running ∧ 2 ≤ fieldAt [0, 2, 0, 0] 1 1
      ∧ port2.state = .idle ∧ min 0 (min port2.accountCap port2.shedCap) = 0
      ∧ min 1 (min port2.accountCap port2.shedCap) ≠ 0 ∧ ({ port2 with state := .latched } : Port).state = .latched
      ∧ ({ port2 with state := .tripWait } : Port).state = .tripWait := by
  and_intros <;> decide +kernel

/-- Ports that keep what their states promise, with demands at, above and below their duty. -/
theorem witness_port_demand :
    PortOk { port2 with state := .barred, demand := true }
      ∧ PortOk { port2 with state := .ramping, demand := true, demandDuty := 1000, target := 1000, duty := 500 }
      ∧ PortOk { port2 with state := .on, demand := true, demandDuty := 500, target := 500, duty := 500 }
      ∧ min 0 (min port2.accountCap port2.shedCap) = 0 ∧ 0 < min 500 (min port2.accountCap port2.shedCap)
      ∧ min 500 (min port2.accountCap port2.shedCap) ≤ 500 ∧ 500 < min 501 (min port2.accountCap port2.shedCap) := by
  and_intros <;> decide +kernel

theorem witness_unlatch :
    (Ready [3] running ∧ Admitted .unlatch running ∧ running.switches.switching = true
        ∧ (running.switches.ports.get 3).state ≠ .latched)
      ∧ (Ready [2] (withPort2 { port2 with state := .latched, retry := 3 })
        ∧ ((withPort2 { port2 with state := .latched, retry := 3 }).switches.ports.get 2).state = .latched)
      ∧ Ready [] running ∧ Ready [4] running ∧ 4 ≤ fieldAt [4] 0 1 := by
  and_intros <;> decide +kernel

theorem witness_meter :
    Ready [] running ∧ Admitted .meter running ∧ running.account.loaded = true
      ∧ Ready [] { starting with account := .start } ∧ Admitted .meter { starting with account := .start } := by
  and_intros <;> decide +kernel

theorem witness_history :
    Ready [0, 0, 0] running ∧ Admitted .history running
      ∧ (Ready [0, 0, 0, 0] running ∧ running.supply.power = .run ∧ running.journal.op = .none)
      ∧ (Ready [0, 0, 0, 0] starting ∧ Admitted .history starting)
      ∧ (Ready [0, 0, 0, 0] erasing ∧ Admitted .history erasing ∧ ¬erasing.journal.op = .none) := by
  and_intros <;> decide +kernel

/-- A CARRY body of one receipt item at the ends of its ranges. -/
def carryOne : List Byte := 1 :: itemBytes (.receipt 4294967294 1 65535 0)

/-- The store with a CARRY in service. -/
def carrying : State := { running with relay := { running.relay with service := some ⟨⟨0, 9, 8, []⟩, [], [], some (1, 1)⟩ } }

theorem witness_relay_requests :
    (Ready [] running ∧ Admitted .carry running ∧ running.relay.service = none ∧ running.domain.clock.timeSet = true
        ∧ readBundle [] = none)
      ∧ (Ready [9] running ∧ readBundle [9] = none) ∧ Ready [0] running
      ∧ (Ready carryOne running ∧ readBundle carryOne = some [.receipt 4294967294 1 65535 0])
      ∧ (Ready [0] carrying ∧ Admitted .carry carrying ∧ carrying.relay.service ≠ none)
      ∧ (Ready [0] { starting with domain := .fresh } ∧ ClockDomain.fresh.clock.timeSet = false)
      ∧ Admitted .handoff running ∧ Admitted .receipts running
      ∧ Ready [255] running ∧ Ready [0, 0, 0, 1, 8] running ∧ 1 ≤ fieldAt [0, 0, 0, 1, 8] 0 4
      ∧ (Ready [255, 255, 255, 254, 9] running ∧ fieldAt [255, 255, 255, 254, 9] 0 4 ≤ 4294967294)
      ∧ (Ready [255, 255, 255, 255, 9] running ∧ 4294967294 < fieldAt [255, 255, 255, 255, 9] 0 4)
      ∧ (Ready [0, 0, 0, 0, 9] running ∧ fieldAt [0, 0, 0, 0, 9] 0 4 = 0) ∧ Ready [1, 2] running
      ∧ Ready [1, 2, 3, 4, 5, 6] running := by
  and_intros <;> decide +kernel

/-- A token item's bytes for a destination, with a hop count. -/
def tokenItem (dest hop : Nat) : List Byte := itemBytes (.token dest (BitVec.allOnes 66) 65535 65535 hop 0)

/-- What a bundle is, each test at a boundary of its range (R155, R180, Table 12-6). -/
theorem witness_bundle_tests :
    (∀ b ∈ [tokenItem 1 0, tokenItem 4294967294 7, itemBytes (.receipt 1 1 0 0), itemBytes (.receipt 4294967294 65535 0 0)],
        ItemInRange b)
      ∧ (∀ b ∈ [tokenItem 0 0, tokenItem 4294967295 0, tokenItem 1 8, (tokenItem 1 0).take 22, tokenItem 1 0 ++ [0],
          3 :: (tokenItem 1 0).drop 1, itemBytes (.receipt 0 1 0 0), itemBytes (.receipt 1 0 0 0)],
        ¬ItemInRange b ∧ readBundle (1 :: b) = none)
      ∧ readBundle (9 :: (List.replicate 9 (itemBytes (.receipt 1 1 0 0))).flatten) = none
      ∧ readBundle (8 :: (List.replicate 8 (itemBytes (.receipt 1 1 0 0))).flatten)
          = some (List.replicate 8 (.receipt 1 1 0 0))
      ∧ spelledItem (tokenItem 1 7) = .token 1 (BitVec.allOnes 66) 65535 65535 7 0 := by
  and_intros <;> decide +kernel

/-- The body of the record with one field out of range, the kit number 0. -/
def outOfRange : List Byte := settingsBytes { kit with kitNumber := 0 }

theorem witness_provision :
    (Admitted .provision blank ∧ Ready (settingsBytes kit) blank ∧ blank.provisioning.condition = .blank
        ∧ blank.supply.power = .run ∧ (settingsBytes kit).length = 240 ∧ firstOutOfRange (settingsBytes kit) = none
        ∧ thresholdsOrdered (readSettings (settingsBytes kit)) = true
        ∧ tariffNumbersDistinct (readSettings (settingsBytes kit)) = true)
      ∧ (Ready [] running ∧ Admitted .provision running ∧ running.provisioning.condition = .valid)
      ∧ (Ready [] { blank with provisioning := ⟨.spoiled, .damaged, .idle, none⟩ }
        ∧ Admitted .provision { blank with provisioning := ⟨.spoiled, .damaged, .idle, none⟩ })
      ∧ (Ready [] State.reset ∧ Admitted .provision State.reset ∧ State.reset.supply.power ≠ .run)
      ∧ (Ready (.replicate 239 0) blank ∧ Ready (.replicate 241 0) blank)
      ∧ (outOfRange.length = 240 ∧ firstOutOfRange outOfRange = some 0) := by
  and_intros <;> decide +kernel

/-- F3 at cutoff + H, and two tariffs of one number. -/
theorem witness_provision_refusals :
    (firstOutOfRange (settingsBytes { kit with f3 := 10900 }) = none
        ∧ thresholdsOrdered (readSettings (settingsBytes { kit with f3 := 10900 })) = false)
      ∧ (firstOutOfRange (settingsBytes { kit with tariffs := kit.tariffs.map (fun t => { t with number := 1 }) }) = none
        ∧ thresholdsOrdered (readSettings
            (settingsBytes { kit with tariffs := kit.tariffs.map (fun t => { t with number := 1 }) })) = true
        ∧ tariffNumbersDistinct (readSettings
            (settingsBytes { kit with tariffs := kit.tariffs.map (fun t => { t with number := 1 }) })) = false) := by
  and_intros <;> decide +kernel

/-- Fields just out of their ranges, and a body with none. -/
theorem witness_provision_ranges :
    FieldOutOfRange outOfRange 0
      ∧ FieldOutOfRange (settingsBytes { kit with rcTrim := -128 }) 71
      ∧ FieldOutOfRange (settingsBytes { kit with hysteresis := 1001 }) 65
      ∧ FieldOutOfRange ((settingsBytes kit).set (72 + 21 * 7 + 20) 240) 239
      ∧ FieldOutOfRange ((settingsBytes kit).set (72 + 19) 64) 91
      ∧ ((List.range 240).filter (fun o => decide (FieldOutOfRange (settingsBytes kit) o))) = [] := by
  and_intros <;> decide +kernel

theorem witness_restart :
    (Ready [] starting ∧ Admitted .restart starting ∧ starting.supply.power ≠ .run)
      ∧ (Ready [] { running with supply := { running.supply with restartPending := true } })
      ∧ (Ready [] running ∧ Admitted .restart running ∧ running.supply.power = .run
        ∧ running.supply.restartPending = false ∧ running.provisioning.provisioned = true
        ∧ running.journal.failed = false ∧ running.journal.op = .none ∧ running.journal.flushWait = false)
      ∧ (Ready [] { running with journal := { running.journal with failed := true } })
      ∧ (Ready [] erasing ∧ erasing.journal.op ≠ .none ∧ erasing.journal.queue = [])
      ∧ (Ready [] { erasing with journal := { erasing.journal with queue := [.suspend, .tally false, .suspend] } }
        ∧ ∀ r, Queued.tally r ∉ [Queued.suspend])
      ∧ (Ready [] { running with journal := { running.journal with
            queue := [.tally false, .tally false], op := .write tallyEntry } })
      ∧ (Ready [] { running with journal := { running.journal with flushWait := true, queue := [.suspend] } })
      ∧ (Ready [] blank ∧ Admitted .restart blank ∧ blank.provisioning.provisioned = false) := by
  and_intros <;> decide +kernel

/-- A frame in reception, in each condition. -/
def receiving (count : Nat) (c : FrameCondition) : State :=
  { running with link := { running.link with reception := some ⟨0, count, [], c⟩ } }

/-- A frame in reception after a full ring. -/
def crowded : State :=
  { running with link := { running.link with held := [⟨0, 0, []⟩], reception := some ⟨0, 1, [], .good⟩ } }

/-- A full ring with no frame in reception. -/
def fullRing : State := { running with link := { running.link with held := [⟨0, 0, []⟩] } }

theorem witness_characters :
    (Settled asleep ∧ asleep.link.receiving = false)
      ∧ (Settled running ∧ running.link.receiving = true ∧ running.link.reception = none ∧ running.link.freeRun ≠ 0)
      ∧ (Settled (receiving 259 .good) ∧ (receiving 259 .good).link.freeRun ≠ 0) ∧ Settled (receiving 260 .damaged)
      ∧ (Settled crowded ∧ crowded.link.freeRun = 0)
      ∧ (Settled fullRing ∧ fullRing.link.receiving = true ∧ fullRing.link.reception = none ∧ fullRing.link.freeRun = 0)
      ∧ Settled (receiving 300 .overrun) ∧ Settled (receiving 300 .oversized) := by
  and_intros <;> decide +kernel

theorem witness_frames :
    (running.supply.power.awake = true ∧ parseFrame [] = none ∧ parseFrame (frameBytes 1 1 []) ≠ none)
      ∧ Ready (.replicate 255 0) running ∧ requestKindOf 0 = none ∧ requestKindOf 15 = none
      ∧ requestKindOf 128 = none ∧ Settled (receiving 5 .overrun) ∧ Settled (receiving 5 .oversized)
      ∧ Settled (receiving 5 .damaged) ∧ (Ready [] full ∧ 4 ≤ full.link.replyCount) := by
  and_intros <;> decide +kernel

/-- A frame of one body byte is read; with a byte more, a byte fewer or its last bit changed it is malformed (R167, R179). -/
theorem test_malformed_frames :
    parseFrame (frameBytes 9 1 [7]) = some (9, 1, [7]) ∧ parseFrame (frameBytes 9 1 [7] ++ [0]) = none
      ∧ parseFrame (frameBytes 9 1 [7]).dropLast = none
      ∧ parseFrame ((frameBytes 9 1 [7]).dropLast ++ (frameBytes 9 1 [7]).getLast?.toList.map (· ^^^ 1)) = none
      ∧ parseFrame [9, 1] = none := by
  and_intros <;> decide +kernel

/-- The reply OK to a RESTART on the line. -/
def restarting : State :=
  { running with link := { running.link with transmit := [.reply ⟨0, 9, 14, [0], true⟩], onLine := some [] } }

/-- A NOTICE frame on the line. -/
def noticing : State :=
  { running with link := { running.link with
      notices := 1, transmit := [.notice (some 1#16)], onLine := some [] } }

/-- The part after a break, its line not yet idle. -/
def broken : State := { running with link := { running.link with receiving := false, notices := 1 } }

/-- The same part with a cause raised during the break. -/
def brokenWaiting : State := { broken with link := { broken.link with transmit := [.notice none] } }

theorem witness_breaks :
    (Settled running ∧ running.link.receiving = true ∧ running.link.restartQueued = false)
      ∧ (Settled restarting ∧ restarting.link.receiving = true ∧ restarting.link.restartQueued = true
        ∧ restarting.journal.op = .none)
      ∧ (Settled broken ∧ broken.supply.power.awake = true ∧ broken.link.receiving = false
        ∧ broken.link.transmit = [] ∧ broken.link.onLine = none ∧ broken.link.notices ≠ 0)
      ∧ (Settled brokenWaiting ∧ brokenWaiting.link.receiving = false
        ∧ (brokenWaiting.link.transmit.filter (fun x => x = .notice none)).length ≤ 1)
      ∧ (Settled asleep ∧ asleep.supply.power.awake = false) := by
  and_intros <;> decide +kernel

theorem witness_sent :
    (Settled running ∧ running.link.onLine = none)
      ∧ (Settled noticing ∧ noticing.link.onLine ≠ none)
      ∧ (Settled full ∧ full.link.onLine ≠ none) ∧ (Settled restarting ∧ restarting.link.onLine ≠ none) := by
  and_intros <;> decide +kernel

/-- A cause raised with the set empty, and with it not. -/
theorem witness_raise :
    running.supply.power.awake = true ∧ running.link.notices = 0 ∧ noticing.supply.power.awake = true
      ∧ noticing.link.notices ≠ 0 := by
  and_intros <;> decide +kernel

/-- The part with a second field and a minute as given. -/
def atTime (minute second hold : Nat) (s : State) : State :=
  { s with domain := { s.domain with clock :=
    { s.domain.clock with minute := minute, second := second, hold := hold } } }

theorem witness_seconds :
    ((atTime 600 58 0 running).domain.powered = true ∧ (atTime 600 58 0 running).domain.clock.second < 59
        ∧ (atTime 600 58 0 running).supply.power ≠ .off)
      ∧ ((atTime 600 58 0 asleep).supply.power = .off ∧ 1800 ≤ ({ sample with backup := 1800 } : Sample).backup) := by
  and_intros <;> decide +kernel

/-- The empty queue, in each source, and timers at both ends. -/
theorem witness_milliseconds :
    running.pending = [] ∧ running.switches.switching = true ∧ asleep.switches.switching = false
      ∧ running.domain.powered = true ∧ running.domain.clock.source = .crystal ∧ ClockDomain.fresh.clock.source = .rc
      ∧ ClockDomain.fresh.powered = true ∧ ClockDomain.off.powered = false := by
  and_intros <;> decide +kernel

theorem witness_minutes :
    ((atTime 600 59 0 asleep).domain.powered = true ∧ (atTime 600 59 0 asleep).domain.clock.second = 59
        ∧ (atTime 600 59 0 asleep).supply.power = .off ∧ 1800 ≤ ({ sample with backup := 1800 } : Sample).backup
        ∧ (atTime 600 59 0 running).supply.power = .run ∧ (atTime 600 59 0 starting).supply.power = .starting
        ∧ (atTime 600 59 0 asleep).domain.clock.timeSet = true ∧ (atTime 600 59 0 asleep).domain.clock.hold = 0)
      ∧ 0 < (atTime 600 59 1 asleep).domain.clock.hold
      ∧ ((atTime 1439 59 0 asleep).domain.clock.minute = 1439 ∧ (atTime 1439 59 0 asleep).domain.clock.day ≠ 65535)
      ∧ ({ asleep with domain := ClockDomain.fresh } : State).domain.clock.timeSet = false := by
  and_intros <;> decide +kernel

/-- The battery reading at cutoff, and the meter's counts at their top. -/
theorem witness_samples :
    running.domain.powered = true ∧ running.domain.clock.second < 59 ∧ running.supply.power = .run
      ∧ running.meter.sampling = true ∧ running.levels.cutoff ≤ min 10600 20000
      ∧ ¬running.levels.cutoff ≤ min 10599 20000
      ∧ (Settled running ∧ running.switches.switching = true ∧ running.provisioning.inProgress = false
        ∧ running.provisioning.provisioned = true ∧ running.journal.failed = false)
      ∧ (blank.provisioning.provisioned = false ∧ blank.supply.power = .run ∧ blank.switches.switching = true
        ∧ min 10199 20000 < blank.levels.cutoff ∧ blank.provisioning.inProgress = false) := by
  and_intros <;> decide +kernel

/-- Port 2 held at 0 with each sense run, and in FAULT, under a sample of 8,000 mA (R99). -/
def sensed (state : SenseState) (run : Nat) : State :=
  { running with meter := { running.meter with ports := running.meter.ports.set 2 ⟨0, 0, 0, state, run⟩ } }

/-- The answer for the next second is whether the duty was above 0 at the event (R110). -/
theorem test_driven_answer :
    [0, 250].map (fun duty => ((after (.secondEvent sample)
      (withPort2 { port2 with state := .ramping, demand := true, target := 250, duty := duty })).switches.ports.get 2).driven)
      = [false, true] := by
  decide +kernel

theorem witness_sense :
    (∀ run ∈ [0, 1, 2], (sensed .clear run).domain.powered = true ∧ (sensed .clear run).meter.sampling = true
        ∧ ((sensed .clear run).switches.ports.get 2).driven = false)
      ∧ (sensed .fault 0).supply.power = .run ∧ (sensed .clear 2).levels.cutoff ≤ min 13000 20000
      ∧ ((after (.secondEvent sample) (sensed .clear 2)).meter.ports.get 2).sense = .fault := by
  and_intros <;> decide +kernel

/-- A tally that takes an ACTIVE balance from S = 500 to 495 raises LOW_CREDIT and nothing else (R10, R25, Table 10-3). -/
theorem test_low_credit_notice :
    (after (.secondEvent ⟨13000, .same 0, 3000, .minuteLast⟩)
        { atTime 614 59 0 running with account := ⟨{ active with balance := 500 }, false, none, true⟩ }).link.notices
      = 0x0002#16 := by
  decide +kernel

theorem witness_tally_points :
    (atTime 614 59 0 running).domain.clock.second = 59 ∧ (atTime 614 59 0 running).domain.clock.timeSet = true
      ∧ (atTime 614 59 0 running).domain.clock.hold = 0 ∧ (atTime 614 59 0 running).domain.clock.minute ≠ 1439
      ∧ ((atTime 614 59 0 running).domain.clock.minute + 1) % 15 = 0
      ∧ (atTime 614 59 0 running).account.acct.state ≠ .unprovisioned
      ∧ (atTime 614 59 0 running).account.pinned = false
      ∧ ({ atTime 614 59 0 running with account := ⟨active, true, none, true⟩ } : State).account.pinned = true := by
  and_intros <;> decide +kernel

/-- The last second of a day, with a tariff staged and a record and a receipt at the end of their days. -/
def dayEnd : State :=
  { atTime 1439 59 0 running with
    account := { running.account with acct := { active with stagedTariff := some 5 } }
    relay := { running.relay with
      records := [⟨5, tokenNumber 1 1 0 0 0, 0, 1300, 0, 0, 0⟩, ⟨5, tokenNumber 1 2 0 0 0, 0, 1301, 0, 0, 0⟩]
      receipts := [⟨5, 1, 1286, 0, 0⟩, ⟨5, 2, 1287, 0, 0⟩] } }

theorem witness_day_points :
    dayEnd.domain.clock.minute = 1439 ∧ dayEnd.domain.clock.day ≠ 65535 ∧ 1301 = dayEnd.domain.clock.day + 1
      ∧ dayEnd.domain.clock.second = 59 ∧ dayEnd.domain.clock.timeSet = true ∧ dayEnd.domain.clock.hold = 0
      ∧ dayEnd.supply.power = .run ∧ dayEnd.account.acct.state ≠ .unprovisioned ∧ dayEnd.account.pinned = false
      ∧ dayEnd.account.acct.stagedTariff ≠ none ∧ dayEnd.switches.switching = true ∧ Settled dayEnd
      ∧ dayEnd.levels.cutoff ≤ min 10600 20000 := by
  and_intros <;> decide +kernel

/-- A second at 12:14:59 whose reading begins holdover. -/
theorem witness_holdover_minute :
    (atTime 614 59 0 running).domain.powered = true ∧ (atTime 614 59 0 running).domain.clock.second = 59
      ∧ (atTime 614 59 0 running).supply.power = .run ∧ (atTime 614 59 0 running).provisioning.provisioned = true
      ∧ (atTime 614 59 0 running).journal.failed = false ∧ (atTime 614 59 0 running).meter.sampling = true
      ∧ min 10599 20000 < (atTime 614 59 0 running).levels.cutoff ∧ SecondOrder.minuteMiddle ≠ .minuteFirst := by
  and_intros <;> decide +kernel

/-- A part in STARTING with its filter one short of its end, and one with a flash operation in progress. -/
theorem witness_readings :
    (running.domain.powered = true ∧ running.domain.clock.second < 59 ∧ running.supply.power = .run
        ∧ running.switches.switching = true ∧ running.levels.cutoff ≤ min 11999 20000
        ∧ running.provisioning.provisioned = true ∧ blank.provisioning.provisioned = false ∧ blank.supply.power = .run
        ∧ blank.levels.cutoff ≤ min 10200 20000)
      ∧ (({ starting with supply := { starting.supply with filter := 59 } } : State).supply.filter + 1 = 60
        ∧ starting.supply.power = .starting ∧ starting.supply.givenUp = false ∧ starting.supply.replay = .notAsked
        ∧ starting.provisioning.condition = .valid ∧ State.reset.provisioning.condition ≠ .valid
        ∧ starting.levels.restartLevel ≤ min 11400 20000 ∧ min 11399 20000 < starting.levels.restartLevel
        ∧ starting.levels.cutoff ≤ min 10600 20000 ∧ min 10599 20000 < starting.levels.cutoff
        ∧ starting.journal.op = .none ∧ erasing.journal.op ≠ .none ∧ starting.domain.powered = true
        ∧ starting.domain.clock.second < 59)
      ∧ PortsOk (withPort2 port2) := by
  refine ⟨by and_intros <;> decide +kernel, by and_intros <;> decide +kernel, fun _ => ?_⟩
  and_intros <;> decide +kernel

theorem witness_sleeping :
    asleep.domain.powered = true ∧ asleep.supply.power = .off ∧ asleep.levels.restartLevel ≤ min 11400 20000
      ∧ min 11399 20000 < asleep.levels.restartLevel := by
  and_intros <;> decide +kernel

theorem witness_tallies :
    after1945.state = .active ∧ (tallyStages tariff3 ⟨1300, 200, 2800, 1489280⟩ before1945).1 < before1945.balance
      ∧ (after1945.balance ≤ (tallyStages tariff3 ⟨2500, 200, 2800, 1504320⟩ after1945).1)
      ∧ (after1945.graceArmed = true ∧ 0 < tariff3.graceDays
        ∧ (tallyStages tariff3 ⟨2500, 200, 2800, 1504320⟩ after1945).1 - after1945.balance ≤ tariff3.debtLimit)
      ∧ (after2000.state = .grace ∧ 15 < after2000.graceBudget)
      ∧ (tariffOf kit 3 = tariff3 ∧ tariff3.standing ≤ 500) := by
  and_intros <;> decide +kernel

/-- An excess above a debt limit of 0, and a GRACE account whose budget ends. -/
theorem witness_exhaustion :
    { tariff3 with debtLimit := 0 }.debtLimit < 36 - 3 ∧ ({ after1945 with graceArmed := false } : Account).state = .active
      ∧ ({ after2000 with graceBudget := 15 } : Account).graceBudget ≤ 15 := by
  and_intros <;> decide +kernel

theorem witness_token_effects :
    (active.state = .active ∧ active.balance + active.ht + active.vt = active.debt + active.ct + active.ft)
      ∧ (({ active with state := .locked, balance := 0, debt := 1499 } : Account).debt < tariff3.debtLimit)
      ∧ (tariff3.debtLimit ≤ ({ active with state := .locked, balance := 0, debt := 1500 } : Account).debt)
      ∧ after2000.state = .grace ∧ 33 ≤ after2000.debt ∧ after2000.debt < 34 ∧ after2000.debt ≤ 33 := by
  and_intros <;> decide +kernel

/-- The tokens on the account: a PAID_OFF account, a debt at and above an amount, and a number of the table. -/
theorem witness_token_forms :
    AccountOk { active with state := .paidOff } ∧ (5 ≠ active.activeTariff)
      ∧ ({ active with state := .locked, balance := 0, debt := 7 } : Account).debt = 7 := by
  and_intros <;> decide +kernel

/-- A GRACE account at and above the limit of the tariff that a day brings, and one without a staged tariff. -/
theorem witness_days :
    ({ after2000 with stagedTariff := some 5, debt := 801 } : Account).state = .grace
      ∧ (tariffOf kit 5).debtLimit < 801 ∧ 800 ≤ (tariffOf kit 5).debtLimit ∧ active.stagedTariff = none := by
  and_intros <;> decide +kernel

/-- Catch-ups: a charge one below and at the balance, an excess at and above the limit, and a budget that ends with it. -/
theorem witness_catch_up :
    ((0 + 96 * (tariffOf kit 3).standing) / 96 < 501 ∧ 500 ≤ (0 + 96 * (tariffOf kit 3).standing) / 96)
      ∧ ((0 + 96 * 5 * (tariffOf kit 3).standing) / 96 - 1000 ≤ (tariffOf kit 3).debtLimit
        ∧ (tariffOf kit 3).debtLimit < (0 + 96 * 5 * (tariffOf kit 3).standing) / 96 - 999)
      ∧ active.state = .active ∧ active.graceArmed = true ∧ 0 < (tariffOf kit 3).graceDays
      ∧ after2000.state = .grace ∧ after2000.graceBudget ≤ 15 * 192 ∧ 15 * 191 < after2000.graceBudget := by
  and_intros <;> decide +kernel

theorem witness_caps :
    (withPort2 port2).switches.switching = true ∧ PortsOk (withPort2 port2) := by
  refine ⟨by decide +kernel, fun _ => ?_⟩
  and_intros <;> decide +kernel

/-- Anchors at the days and minutes where their outcomes meet. -/
theorem witness_anchors :
    ((⟨1300, 1439⟩ : ClockTime).minute < 1440 ∧ TokenKind.addCredit ≠ .setTime ∧ 1300 < 1301 ∧ 1299 ≤ 1300
        ∧ 1300 ≤ 1299 + 1 ∧ 1298 + 1 < 1300)
      ∧ (1300 * 1440 + 1439 < 1301 * 1440 + 0 ∧ 1300 * 1440 + 1438 < 1300 * 1440 + 1439)
      ∧ (running.domain.clock.minute < 1440 ∧ 1300 * 1440 + 600 < 1300 * 1440 + 601) := by
  and_intros <;> decide +kernel

theorem witness_retired :
    ({ active with state := .locked, balance := 0 } : Account).state = .locked
      ∧ ({ active with state := .paidOff } : Account).state = .paidOff
      ∧ State.reset.account.acct.state = .unprovisioned := by
  and_intros <;> decide +kernel

theorem witness_trips :
    (Settled (withPort2 { port2 with state := .on, retry := 2 })
        ∧ ((withPort2 { port2 with state := .on, retry := 2 }).switches.ports.get 2).retry < 3
        ∧ (withPort2 { port2 with state := .on, retry := 2 }).provisioning.settings.currentLimits.get 2 < 2501
        ∧ 2500 ≤ (withPort2 { port2 with state := .on, retry := 2 }).provisioning.settings.currentLimits.get 2)
      ∧ (Settled (withPort2 { port2 with state := .ramping, retry := 3 })
        ∧ 3 ≤ ((withPort2 { port2 with state := .ramping, retry := 3 }).switches.ports.get 2).retry)
      ∧ (running.supply.power.awake = true ∧ running.switches.switching = true
        ∧ (running.switches.ports.get 0).state = .idle) := by
  and_intros <;> decide +kernel

theorem witness_port_timers :
    Settled (withPort2 { port2 with state := .ramping, target := 250 })
      ∧ (({ port2 with state := .ramping, target := 250 } : Port).duty < 250 ∧ 250 ≤ port2.duty + 250)
      ∧ (port2.duty + 250 < ({ port2 with state := .ramping, target := 251 } : Port).target)
      ∧ ((withPort2 { port2 with state := .tripWait }).switches.ports.get 2).state = .tripWait
      ∧ ((withPort2 { port2 with state := .on }).switches.ports.get 2).state = .on
      ∧ ((withPort2 port2).switches.ports.get 2).state = .idle
      ∧ (withPort2 port2).switches.switching = true := by
  and_intros <;> decide +kernel

/-- The last minute of the calendar, and a count at its top. -/
theorem witness_ends_of_range :
    (({ asleep with domain := { asleep.domain with clock := ⟨65535, 1439, 59, true, .rc, 0, .lost, 0, 0⟩ } } :
        State).domain.clock.day = 65535)
      ∧ 4294967295 < (⟨4294967295, 3599999, 0, .clear, 0⟩ : MeterPort).count + (3599999 + 13000 * 20) / 3600000
      ∧ (⟨4294967295, 0, 0, .clear, 0⟩ : MeterPort).count = 4294967295
      ∧ 4294967295 + (0 + 0) / 3600000 ≤ 4294967295 := by
  and_intros <;> decide +kernel

/-! A digest's result is opaque, so the tokens and items below carry checks made from it. -/

/-- The digest request at the head of the list. -/
def request (p : DigestPurpose) : DigestRequest := ⟨p, 17, [1, 2, 3]⟩

/-- The check that its result gives. -/
def goodCheck : BitVec 22 := BitVec.ofNat 22 (Config.keyedDigest 17 [1, 2, 3])

/-- An ADD_CREDIT token of 1 cu issued today, with a check. -/
def tokenWith (check : BitVec 22) : BitVec 66 := tokenNumber 1 1 276 1 check

/-- The part with a token's check digest in service and a penalty count. -/
def checking (src : TokenSource) (n : BitVec 66) (count : Nat) : State :=
  { erasing with
    digests := [request .tokenCheck]
    tokens := { erasing.tokens with intake := [⟨src, n⟩], service := .awaitDigest }
    domain := { erasing.domain with penalty := ⟨count, 0, 0⟩ } }

theorem witness_bad_checks (src : TokenSource) :
    (∀ count ∈ [0, 3, 4, 5, 65535], Settled (checking src (tokenWith (goodCheck + 1)) count)
        ∧ (checking src (tokenWith (goodCheck + 1)) count).supply.power.awake = true)
      ∧ BitVec.ofNat 22 (Config.keyedDigest (request .tokenCheck).key (request .tokenCheck).fields)
          ≠ tokenCheck (tokenWith (goodCheck + 1)) := by
  constructor
  · intro count _
    refine ⟨⟨⟨?_, ?_, ?_⟩, ?_⟩, rfl⟩ <;> simp [checking, erasing, running, State.reset, TokenUnit.start, RelayStore.start,
      Link.start, Journal.start]
  · simp only [tokenWith, tokenCheck_tokenNumber]
    show goodCheck ≠ goodCheck + 1
    generalize goodCheck = x
    intro h
    have := congrArg (fun y => y - x) h
    simp at this

/-- A second entry in the intake, behind a bad one: after a count of 3 no wait runs, and after a count of 4 one of a minute
does (R48, R50, R66). -/
theorem witness_bad_checks_next (src next : TokenSource) (count : Nat) (more : List IntakeEntry) :
    (Settled { checking src (tokenWith (goodCheck + 1)) count with
          tokens := ⟨⟨src, tokenWith (goodCheck + 1)⟩ :: ⟨next, tokenNumber 1 2 276 1 0⟩ :: more, .awaitDigest, ⟨0, []⟩, none⟩ })
      ∧ (checking src 0 count).supply.power = .run ∧ tokenSerial (tokenNumber 1 2 276 1 0) ≠ 0
      ∧ (⟨3, 0, 0⟩ : Penalty).advance.waitRemaining = 0 ∧ (⟨4, 0, 0⟩ : Penalty).advance.waitRemaining = 60
      ∧ 0 ∉ (checking src 0 count).link.cancelled := by
  refine ⟨⟨⟨?_, ?_, ?_⟩, ?_⟩, rfl, by decide +kernel, by decide +kernel, by decide +kernel, ?_⟩ <;>
    simp [checking, erasing, running, State.reset, RelayStore.start, Link.start, Journal.start]

theorem witness_genuine (src : TokenSource) :
    Settled (checking src (tokenWith goodCheck) 0)
      ∧ BitVec.ofNat 22 (Config.keyedDigest (request .tokenCheck).key (request .tokenCheck).fields)
          = tokenCheck (tokenWith goodCheck)
      ∧ tokenKindOf (tokenKind (tokenWith goodCheck)) = some .addCredit
      ∧ (checking src (tokenWith goodCheck) 0).tokens.window.verdict (tokenSerial (tokenWith goodCheck)) = .new
      ∧ (∃ entry, evaluate kit running.domain.clock false active .addCredit (tokenWith goodCheck) = .ok entry)
      ∧ (checking src (tokenWith goodCheck) 0).journal.op ≠ .none := by
  refine ⟨⟨⟨?_, ?_, ?_⟩, ?_⟩, ?_, ?_, ?_, ?_, ?_⟩
  · simp [checking, erasing, running, State.reset, TokenUnit.start]
  · simp [checking, erasing, running, State.reset, RelayStore.start]
  · simp [checking, erasing, running, State.reset, Journal.start]
  · simp [checking, erasing, running, State.reset, Link.start]
  · simp only [tokenWith, tokenCheck_tokenNumber]; rfl
  · simp only [tokenWith, tokenKind_tokenNumber]; rfl
  · simp only [tokenWith, tokenSerial_tokenNumber]; rfl
  · have h : evaluate kit running.domain.clock false active .addCredit (tokenWith goodCheck)
        = evaluate kit running.domain.clock false active .addCredit (tokenWith 0) := by
      simp only [evaluate, tokenWith, tokenKind_tokenNumber, tokenSerial_tokenNumber, tokenDayField_tokenNumber,
        tokenValue_tokenNumber]
    rw [h]
    exact ⟨⟨⟨1, 1, 1, 1300, .confirm⟩, ⟨1300, 600⟩, creditAccount tariff3 1 active, false, false⟩, rfl⟩
  · simp [checking, erasing, running]

/-- The same part with its journal idle, its sector full or not. -/
theorem witness_genuine_idle (src : TokenSource) (slot : Nat) :
    Settled { checking src (tokenWith goodCheck) 0 with journal := { running.journal with nextSlot := slot } }
      ∧ running.journal.op = .none ∧ running.journal.flushWait = false := by
  refine ⟨⟨⟨?_, ?_, ?_⟩, ?_⟩, rfl, rfl⟩ <;>
    simp [checking, erasing, running, State.reset, RelayStore.start, Link.start, Journal.start]

/-- The part with a genuine token's check digest in service, and a window. -/
def judging (src : TokenSource) (kind : BitVec 4) (serial : BitVec 16) (value : BitVec 14) (w : Window) : State :=
  { checking src (tokenNumber kind serial 276 value goodCheck) 0 with
    tokens := ⟨[⟨src, tokenNumber kind serial 276 value goodCheck⟩], .awaitDigest, w, none⟩ }

/-- Tokens that reach each refusal from the kind on: kinds 0 and 9, a mark and H, the serials on both sides of H − 31, and a
value out of its range (R52, R53, R58). -/
theorem witness_genuine_refusals (src : TokenSource) (kind : BitVec 4) (serial : BitVec 16) (value : BitVec 14)
    (w : Window) :
    Settled (judging src kind serial value w) ∧ (judging src kind serial value w).supply.power.awake = true
      ∧ BitVec.ofNat 22 (Config.keyedDigest (request .tokenCheck).key (request .tokenCheck).fields)
          = tokenCheck (tokenNumber kind serial 276 value goodCheck)
      ∧ tokenKindOf (tokenKind (tokenNumber 0 serial 276 value goodCheck)) = none
      ∧ tokenKindOf (tokenKind (tokenNumber 9 serial 276 value goodCheck)) = none
      ∧ Window.verdict (tokenSerial (tokenNumber kind 9 276 value goodCheck)) ⟨40, [9]⟩ = .duplicate
      ∧ Window.verdict (tokenSerial (tokenNumber kind 40 276 value goodCheck)) ⟨40, [9]⟩ = .duplicate
      ∧ Window.verdict (tokenSerial (tokenNumber kind 9 276 value goodCheck)) ⟨40, []⟩ = .new
      ∧ Window.verdict (tokenSerial (tokenNumber kind 8 276 value goodCheck)) ⟨40, []⟩ = .tooOld
      ∧ evaluate kit running.domain.clock false active .addCredit (tokenNumber 1 9 276 0 goodCheck)
          = .error .badFormat := by
  refine ⟨⟨⟨?_, ?_, ?_⟩, ?_⟩, rfl, ?_, ?_, ?_, ?_, ?_, ?_, ?_, ?_⟩
  · simp [judging]
  · simp [judging, checking, erasing, running, State.reset, RelayStore.start]
  · simp [judging, checking, erasing, running, State.reset, Journal.start]
  · simp [judging, checking, erasing, running, State.reset, Link.start]
  · simp only [tokenCheck_tokenNumber]; rfl
  · simp only [tokenKind_tokenNumber]; rfl
  · simp only [tokenKind_tokenNumber]; rfl
  · simp only [tokenSerial_tokenNumber]; rfl
  · simp only [tokenSerial_tokenNumber]; rfl
  · simp only [tokenSerial_tokenNumber]; rfl
  · simp only [tokenSerial_tokenNumber]; rfl
  · simp only [evaluate, tokenKind_tokenNumber, tokenSerial_tokenNumber, tokenDayField_tokenNumber,
      tokenValue_tokenNumber]
    rfl

/-- The issue days at the bounds of each condition's tests, with the clock at day 500 and an accept age of 60. -/
theorem witness_evaluation_order :
    (∀ field ∈ [508, 440, 439, 509], (0 : Int) ≤ resolveIssueDay ⟨500, 0, 0, true, .rc, 0, .running, 0, 0⟩ field
        ∨ resolveIssueDay ⟨500, 0, 0, true, .rc, 0, .running, 0, 0⟩ field < 0)
      ∧ resolveIssueDay ⟨500, 0, 0, true, .rc, 0, .running, 0, 0⟩ 440 = 500 - 60
      ∧ resolveIssueDay ⟨500, 0, 0, true, .rc, 0, .running, 0, 0⟩ 439 < 500 - 60
      ∧ resolveIssueDay ⟨500, 0, 0, true, .rc, 0, .running, 0, 0⟩ 509 < 0
      ∧ resolveIssueDay ⟨65535, 0, 0, true, .rc, 0, .lost, 0, 0⟩ 0 = 65536
      ∧ valueValid .addCredit 4096 = false ∧ valueValid .addCredit 1 = true := by
  and_intros <;> decide +kernel

/-- Tokens that reach each later refusal, and one that passes: a zero standing charge, an overflow by 1 and none, a FAILED
journal. -/
theorem witness_evaluation_refusals :
    applicable kit .addDays 1 { active with activeTariff := 12 } = false ∧ applicable kit .addCredit 1 active = true
      ∧ creditOf kit .addCredit 1 active = some 1
      ∧ 9999999 < ({ active with balance := 9999999 } : Account).balance + (1 - min 1 0)
      ∧ ({ active with balance := 9999998 } : Account).balance + (1 - min 1 0) ≤ 9999999
      ∧ valueValid .setTime 1439 = true ∧ valueValid .setTime 1440 = false ∧ valueValid .grantGrace 8 = false := by
  and_intros <;> decide +kernel

theorem witness_window :
    Window.verdict 9 ⟨40, [12]⟩ = .new ∧ Window.verdict 41 ⟨40, [12]⟩ = .new ∧ Window.verdict 1 ⟨0, []⟩ = .new
      ∧ (∀ m ∈ (⟨40, [9, 39]⟩ : Window).marks, m < 40 ∧ 40 ≤ m + 31 ∧ 0 < m) := by
  and_intros <;> decide +kernel

/-- A receipt of a kit, a serial and a day. -/
def receipt (kit serial day : Nat) : Receipt := ⟨kit, serial, day, 0, 0⟩

/-- A list of 32 receipts of days 8 to 39 but for its third, of day 7. -/
def fullReceipts : List Receipt :=
  (List.range 32).map (fun i => receipt 5 (i + 1) (if i = 2 then 7 else i + 8))

theorem witness_receipts :
    Settled { running with digests := [request (.ownReceipt 9 1300)] }
      ∧ ([receipt 70112 9 4].any (fun x => x.kit = kit.kitNumber ∧ x.serial = 9) = true)
      ∧ (fullReceipts.any (fun x => x.kit = kit.kitNumber ∧ x.serial = 9) = false)
      ∧ fullReceipts = fullReceipts.take 2 ++ receipt 5 3 7 :: fullReceipts.drop 3 ∧ fullReceipts.length = 32
      ∧ (∀ x ∈ fullReceipts.take 2, 7 < x.created) ∧ (∀ x ∈ fullReceipts.drop 3, 7 ≤ x.created)
      ∧ (fullReceipts.take 31).length < 32 := by
  and_intros <;> decide +kernel

/-- The envelope that the digest in service gives. -/
def goodEnvelope : BitVec 32 := BitVec.ofNat 32 (Config.keyedDigest 17 [1, 2, 3])

/-- The part in STARTING with a CARRY in service and its first item's check in service. -/
def itemChecking (items : List RelayItem) (records : List RelayRecord) : State :=
  { starting with
    digests := [request .itemCheck]
    relay := ⟨records, [], some ⟨⟨0, 9, 8, []⟩, items, [], none⟩, []⟩ }

theorem witness_item_settled (items : List RelayItem) (records : List RelayRecord) :
    Settled (itemChecking items records) ∧ (itemChecking items records).supply.power = .starting
      ∧ 0 ∉ (itemChecking items records).link.cancelled ∧ (itemChecking items records).relay.waiting = [] := by
  refine ⟨⟨⟨?_, ?_, ?_⟩, ?_⟩, ?_, ?_, ?_⟩ <;>
    simp [itemChecking, starting, running, State.reset, Link.start, Journal.start, Supply.start]

/-- The same part in RUN, with the Token Unit idle or at work and the intake empty or full. -/
theorem witness_item_running (items : List RelayItem) (service : TokenService)
    (intake : List IntakeEntry) (h : service = .idle → intake = []) :
    Settled { itemChecking items [] with
        supply := running.supply, tokens := { running.tokens with intake := intake, service := service } }
      ∧ running.supply.power.awake = true ∧ starting.supply.power.awake = true
      ∧ 4 ≤ (List.replicate 4 (⟨.relay, 0⟩ : IntakeEntry)).length := by
  refine ⟨⟨⟨fun h' => h h'.2, ?_, ?_⟩, ?_⟩, rfl, rfl, by decide⟩ <;>
    simp [itemChecking, starting, running, State.reset, Link.start, Journal.start]

theorem witness_item_envelopes :
    BitVec.ofNat 32 (Config.keyedDigest (request .itemCheck).key (request .itemCheck).fields) = goodEnvelope
      ∧ BitVec.ofNat 32 (Config.keyedDigest (request .itemCheck).key (request .itemCheck).fields)
          ≠ (RelayItem.token 5 0 0 0 0 (goodEnvelope + 1)).envelope := by
  refine ⟨rfl, ?_⟩
  show goodEnvelope ≠ goodEnvelope + 1
  generalize goodEnvelope = x
  intro h
  have := congrArg (fun y => y - x) h
  simp at this

theorem witness_item_days :
    (1299 < starting.domain.clock.day ∧ starting.domain.clock.day ≤ 1300 ∧ starting.domain.clock.day + 60 < 1361
        ∧ ¬starting.domain.clock.day + 60 < 1360)
      ∧ 70112 = starting.provisioning.settings.kitNumber ∧ 5 ≠ starting.provisioning.settings.kitNumber
      ∧ starting.tokens.intake.length < 4
      ∧ (evaluateRecord 1300 .start 5 0 1300 1361 6 0).1 = .stored := by
  and_intros <;> decide +kernel

/-- A CARRY whose last item is at its check, a request waiting behind it (R154): a CARRY of one item, one whose body is no
bundle, and a HANDOFF of the counts around 8. -/
theorem witness_carry_end_waiting (items : List RelayItem) (waits : Request) (behind : List Request) :
    (Settled { itemChecking items [] with relay := { (itemChecking items []).relay with waiting := waits :: behind } })
      ∧ starting.domain.clock.timeSet = true ∧ starting.supply.power.awake = true
      ∧ 0 ∉ (itemChecking items []).link.cancelled ∧ RequestKind.carry.code = 8 ∧ RequestKind.handoff.code = 9
      ∧ readBundle (1 :: itemBytes (.receipt 1 1 0 0)) = some [.receipt 1 1 0 0] ∧ readBundle [2] = none
      ∧ min (8 : Byte).toNat 8 = 8 ∧ min (9 : Byte).toNat 8 = 8 ∧ min (7 : Byte).toNat 8 = 7 := by
  refine ⟨⟨⟨?_, ?_, ?_⟩, ?_⟩, rfl, rfl, ?_, by decide, by decide, by decide +kernel, by decide +kernel, by decide, by decide,
    by decide⟩ <;> simp [itemChecking, starting, running, State.reset, Link.start, Journal.start, Supply.start]

/-- A record of a destination and serial with its hop and offer counts. -/
def record (dest serial hop offers : Nat) : RelayRecord :=
  ⟨dest, tokenNumber 1 (.ofNat 16 serial) 0 0 0, 0, 1500, hop, 0, offers⟩

/-- Forty-eight records, the victim of hop count 5 and offer count 4 the third. -/
def fullRecords : List RelayRecord :=
  (List.range 48).map (fun i => record 5 (i + 1) (if i = 2 ∨ i = 0 then 5 else 4) (if i = 2 then 4 else 3))

theorem witness_records :
    (6 ≠ 7 ∧ (∃ r ∈ [receipt 5 7 0], r.kit = 5 ∧ r.serial = 7))
      ∧ (∃ r ∈ [record 5 7 6 0], r.destination = 5 ∧ tokenSerial r.token = 7)
      ∧ (fullRecords.take 47).length < 48 ∧ 48 ≤ fullRecords.length
      ∧ (∀ r ∈ fullRecords, ¬(r.destination = 6 ∧ tokenSerial r.token = 7))
      ∧ fullRecords = fullRecords.take 2 ++ record 5 3 5 4 :: fullRecords.drop 3
      ∧ (∀ r ∈ fullRecords.take 2 ++ fullRecords.drop 3,
          ¬(r.destination = (record 5 3 5 4).destination ∧ tokenSerial r.token = tokenSerial (record 5 3 5 4).token))
      ∧ (∀ r ∈ fullRecords.take 2, r.hop < 5 ∨ (r.hop = 5 ∧ r.offers < 4))
      ∧ (∀ r ∈ fullRecords.drop 3, r.hop < 5 ∨ (r.hop = 5 ∧ r.offers ≤ 4)) := by
  and_intros <;> decide +kernel

theorem witness_renewal :
    Settled { carrying with relay := { carrying.relay with
        service := some ⟨⟨0, 9, 8, []⟩, [.receipt 5 1 0 0], [], some (1, 1)⟩ } }
      ∧ (Settled carrying ∧ carrying.supply.power.awake = true ∧ carrying.relay.waiting = [] ∧ 0 ∉ carrying.link.cancelled) := by
  and_intros <;> decide +kernel

/-- The part writing a slot. -/
def writing (q : Queued) : State :=
  { running with journal := { running.journal with queue := [q], op := .write tallyEntry } }

theorem witness_writes :
    (Settled (writing (.tally false)) ∧ FlashWf (writing (.tally false)).flash ∧ (writing (.tally false)).journal.held = [])
      ∧ 2 ≤ goodSectors (addBad 0x3F#8 0) ∧ goodSectors (addBad 0x3F#8 6) < 2
      ∧ (Settled { erasing with journal := { erasing.journal with queue := [.tally false], bad := 0x77 } }
        ∧ goodSectors (addBad 0x77#8 3) < 2) := by
  and_intros <;> decide +kernel

/-- A HISTORY request that a flash operation holds. -/
def heldHistory : Request := ⟨0, 9, 7, [0, 0, 0, 0]⟩

/-- A state with that request held by the journal. -/
def withHeld (s : State) : State :=
  { s with journal := { s.journal with held := [heldHistory] }, link := { s.link with handed := [0], nextId := 1 } }

theorem witness_writes_held :
    (∀ s ∈ [withHeld (writing (.tally false)), withHeld { writing (.tally false) with journal :=
          { (writing (.tally false)).journal with queue := [.tally false, .token ⟨⟨1, 1, 1, 1298, .none⟩, ⟨1300, 600⟩,
              active, false, false⟩] } }],
        Settled s ∧ FlashWf s.flash ∧ s.supply.power = .run
          ∧ s.journal.queue.head? = some (.tally false) ∧ s.journal.failed = false ∧ s.journal.flushWait = false
          ∧ s.link.completed = [] ∧ 0 ∉ s.link.cancelled)
      ∧ (∀ q, (withHeld (writing q)).journal.op = .write tallyEntry)
      ∧ (∀ m ∈ (⟨40, [39, 8]⟩ : Window).marks, m < 40) ∧ 39 + 1 = 40 ∧ 8 + 32 = 40 :=
  ⟨by decide +kernel, fun _ => rfl, by decide, by decide, by decide⟩

/-- A HISTORY request held over an erase is answered at its end, from a flash with no TOKEN entry (R148, Table 12-8). -/
theorem test_held_history :
    (after (.sectorEraseEnd true []) (withHeld erasing)).link.replies = [⟨0, 9, 7, [0, 0], false⟩] := by
  decide +kernel

/-- The kind body of a CHECKPOINT with H = 40, serials 39, 12 and 8 used and sector 3 bad: bits 0, 27 and 31 of the window
(R182, Table 12-10). -/
theorem test_checkpoint_bytes :
    ((entryBytes ⟨6, .checkpoint ⟨40, [39, 12, 8]⟩ 8, ⟨1300, 0⟩, active, 0⟩).drop 74).take 8
      = [0, 40, 0x88, 0, 0, 1, 8, 0] := by
  decide +kernel

/-- The part with a RESTART's TALLY being written, another TALLY behind it. -/
def flushing (cancelled : List Nat) : State :=
  { writing (.tally true) with
    supply := { running.supply with restartPending := true, restartRequest := some ⟨0, 9, 14, []⟩ }
    journal := { running.journal with queue := [.tally true, .tally false], op := .write tallyEntry }
    link := { running.link with cancelled := cancelled } }

/-- The part in HOLDOVER with a write in progress. -/
def holding (queue : List Queued) : State :=
  { running with
    supply := { running.supply with power := .holdover }
    switches := { running.switches with switching := false }
    link := { running.link with receiving := false }
    journal := { running.journal with queue := queue, op := .write tallyEntry } }

/-- Each source in RUN, in HOLDOVER and with the core off, with the notice set empty and not. -/
theorem witness_clock_domain_events :
    (∀ s ∈ [running, noticing, holding [], asleep],
        Settled s ∧ s.domain.powered = true ∧ s.domain.clock.source = .crystal
          ∧ Settled { s with domain := ClockDomain.fresh })
      ∧ (ClockDomain.fresh.clock.source = .rc ∧ ClockDomain.fresh.powered = true)
      ∧ (Settled { running with domain := { running.domain with penalty := ⟨5, 1, 1⟩ } }
        ∧ running.domain.penalty.waitRemaining ≠ 1) := by
  and_intros <;> decide +kernel

theorem witness_writes_tell :
    (Settled (holding [.suspend]) ∧ FlashWf (holding [.suspend]).flash ∧ (holding [.suspend]).supply.power = .holdover)
      ∧ (Settled (flushing []) ∧ FlashWf (flushing []).flash ∧ (flushing []).supply.power = .run
        ∧ (flushing []).journal.held = [] ∧ (flushing []).supply.restartPending = true ∧ 0 ∉ (flushing []).link.cancelled)
      ∧ (Settled (flushing [0]) ∧ 0 ∈ (flushing [0]).link.cancelled) := by
  and_intros <;> decide +kernel

/-- A sector head's checkpoint in progress, in one kind of work, with a queue. -/
def heading (work : JournalWork) (queue : List Queued) : State :=
  { running with journal := { running.journal with
      nextSlot := 0, queue := queue, work := work
      op := .head (sealEntry 9 (.checkpoint ⟨40, [12]⟩ 0) ⟨1300, 600⟩ active) } }

theorem witness_heads :
    (Settled (heading .ordinary [.tally true, .suspend]) ∧ FlashWf (heading .ordinary []).flash
        ∧ (heading .ordinary []).journal.nextSlot = 0 ∧ (heading .ordinary []).journal.held = []
        ∧ (heading .ordinary []).journal.failed = false ∧ (heading .ordinary []).journal.flushWait = false
        ∧ (heading .ordinary []).supply.givenUp = false)
      ∧ Settled (heading .ordinary [])
      ∧ Settled { heading (.replay ⟨active, ⟨1300, 600⟩, ⟨40, [12]⟩⟩) [] with supply := starting.supply }
      ∧ Settled { heading (.replay ⟨active, ⟨1300, 600⟩, ⟨40, [12]⟩⟩) [] with
          supply := { starting.supply with givenUp := true } }
      ∧ 2 ≤ goodSectors (addBad 0x3E#8 0) := by
  and_intros <;> decide +kernel

/-- The ring's last erase and its first checkpoint in a provisioning. -/
def preparing (op : FlashOp) (work : JournalWork) (bad : BitVec 8) : State :=
  { running with
    provisioning := ⟨.written kit (recordCheck kit), .valid, .ring, some ⟨0, 9, 11, []⟩⟩
    account := .start
    journal := { Journal.start with op := op, work := work, bad := bad } }

theorem witness_provisioning_runs :
    (Settled (preparing (.erase 6) .ringErase 0) ∧ (6 < 7) ∧ 2 ≤ goodSectors (addBad 0x3E#8 6)
        ∧ Settled (preparing (.erase 7) .ringErase 0) ∧ 2 ≤ goodSectors (addBad 0x3F#8 5))
      ∧ (Settled (preparing (.head (sealEntry 1 (.checkpoint ⟨0, []⟩ 0) kit.initialTime (provisionedAccount kit)))
          .ringHead 0))
      ∧ (goodSectors (addBad 0x7E#8 0) < 2 ∧ (preparing .none .ringErase 0).supply.power = .run
        ∧ (preparing .none .ringErase 0).provisioning.condition = .valid
        ∧ (preparing .none .ringErase 0).journal.queue = [] ∧ (preparing .none .ringErase 0).tokens.intake = []
        ∧ (preparing .none .ringErase 0).relay.waiting = [] ∧ (preparing .none .ringErase 0).supply.givenUp = false
        ∧ 0 ∉ (preparing .none .ringErase 0).link.cancelled) := by
  and_intros <;> decide +kernel

/-- A TOKEN entry of an older token, which anchors nothing. -/
def entry : TokenEntry := ⟨⟨1, 1, 1, 1298, .none⟩, ⟨1300, 600⟩, creditAccount tariff3 1 active, false, false⟩

/-- A TOKEN entry of sequence 7 and a CHECKPOINT of sequence 6, with their checks. -/
def tokenEntry : Entry := sealEntry 7 (.token entry.body) ⟨1300, 600⟩ active
def checkpoint : Entry := sealEntry 6 (.checkpoint ⟨40, [12]⟩ 0) ⟨1300, 0⟩ active

/-- The 22 bytes of that TOKEN entry in a HISTORY reply, written out from Table 12-8 (R148). -/
theorem test_history_bytes :
    historyBytes tokenEntry
      = [0, 0, 0, 7, 5, 20, 2, 88, 1, 0, 1, 0, 1, 5, 18, 2, 0, 0, 78, 32, 0, 0] := by
  decide +kernel

/-- The part with that entry's write in progress. -/
def committing : State :=
  { writing (.token entry) with
    tokens := { running.tokens with intake := [⟨.keypad ⟨0, 9, 3, []⟩, tokenNumber 1 1 0 1 0⟩], service := .inFlight }
    account := ⟨active, true, none, true⟩ }

theorem witness_commit :
    Settled committing ∧ committing.supply.power = .run ∧ committing.journal.held = []
      ∧ committing.tokens.service = .inFlight ∧ 0 ∉ committing.link.cancelled ∧ committing.account.pendingTally = none
      ∧ running.domain.clock.anchorDayChange entry.body.outcome = none
      ∧ running.domain.clock.anchorDayChange (.move ⟨1301, 0⟩ 57 true) = some 1301
      ∧ committing.switches.switching = true := by
  and_intros <;> decide +kernel

/-- A relay entry's write in progress, with a tally point pending. -/
def committingRelay (point : ClockTime) : State :=
  { committing with
    tokens := { committing.tokens with intake := [⟨.relay, tokenNumber 1 1 0 1 0⟩] }
    account := ⟨active, true, some point, true⟩ }

/-- The pending tally point on both sides of the time of last tally, and a commit in HOLDOVER. -/
theorem witness_commit_pending :
    (Settled (committingRelay ⟨1300, 615⟩) ∧ After ⟨1300, 615⟩ entry.snapshot.lastTally
        ∧ After ⟨1300, 615⟩ (committingRelay ⟨1300, 615⟩).account.acct.lastTally)
      ∧ (Settled (committingRelay ⟨1300, 600⟩) ∧ ¬After ⟨1300, 600⟩ entry.snapshot.lastTally)
      ∧ (∀ slot ∈ [5, 59], Settled { holding [.token entry, .suspend] with
          tokens := committing.tokens
          journal := { (holding [.token entry, .suspend]).journal with nextSlot := slot } })
      ∧ (holding [.token entry, .suspend]).journal.failed = false
      ∧ (holding [.token entry, .suspend]).journal.flushWait = false
      ∧ (holding []).link.receiving = false ∧ (holding []).switches.switching = false := by
  and_intros <;> decide +kernel

/-- A replay that moves on, its erase in progress. -/
def movingOn : State :=
  { erasing with
    supply := starting.supply
    journal := { erasing.journal with work := .replay ⟨active, ⟨1300, 600⟩, ⟨40, [12]⟩⟩ } }

/-- The part with a flash operation in progress and a bad-sector set. -/
def wearing (op : FlashOp) (bad : BitVec 8) (queue : List Queued) (s : State) : State :=
  { s with journal := { running.journal with op := op, bad := bad, queue := queue } }

theorem witness_flash_failures :
    (Settled movingOn ∧ movingOn.journal.work ≠ .ringErase ∧ 2 ≤ goodSectors (addBad 0x37#8 3)
        ∧ Settled (wearing (.erase 3) 0x37 [.tally false] running))
      ∧ (goodSectors (addBad 0x77#8 3) < 2 ∧ goodSectors (addBad 0x7E#8 0) < 2
        ∧ Settled (wearing (.erase 3) 0x77 [.token entry] (committingRelay ⟨1300, 615⟩))
        ∧ Settled (wearing (.write tallyEntry) 0x7E [.token entry] (committingRelay ⟨1300, 600⟩))
        ∧ Settled (wearing (.head checkpoint) 0x7E [.token entry] committing)
        ∧ Settled (wearing (.write tallyEntry) 0x7E [.tally true] (flushing []))
        ∧ Settled (wearing (.write tallyEntry) 0x7E [.token entry, .suspend] (holding []))
        ∧ movingOn.supply.power = .starting ∧ movingOn.journal.queue = []) := by
  and_intros <;> decide +kernel

theorem witness_erases :
    Settled erasing ∧ erasing.journal.op = .erase 3 ∧ erasing.journal.held = [] ∧ erasing.journal.work = .ordinary
      ∧ erasing.supply.givenUp = false ∧ erasing.journal.failed = false ∧ erasing.supply.power = .run := by
  and_intros <;> decide +kernel

/-- An erase with a HISTORY request held, in RUN and in a replay that moves on. -/
theorem witness_erases_held :
    ∀ s ∈ [withHeld erasing, withHeld movingOn],
      Settled s ∧ s.journal.op = .erase 3 ∧ s.journal.held ≠ [] ∧ s.supply.givenUp = false ∧ s.journal.failed = false := by
  decide +kernel

theorem witness_programming :
    Settled programming ∧ programming.supply.power = .run ∧ programming.provisioning.phase = .programming kit
      ∧ 0 ∉ programming.link.cancelled ∧ running.provisioning.phase = .idle := by
  and_intros <;> decide +kernel

/-- The part with replay's completion reported. -/
def replayed : State :=
  { starting with supply := { starting.supply with replay := .done (some ⟨active, ⟨1300, 600⟩, ⟨40, [12]⟩⟩) } }

/-- A state with a METER request held for the restore and a HISTORY request held by the journal. -/
def withBothHeld (s : State) : State :=
  { withHeld s with
    meter := { s.meter with held := [⟨1, 8, 6, []⟩] }
    link := { s.link with handed := [0, 1], nextId := 2 } }

/-- Warm starts: with and without an entry found, with the journal FAILED, with requests held, and with the intake holding
an entry while a keypad wait is over and while one has a second left. -/
theorem witness_start :
    (∀ s ∈ [replayed, { starting with supply := { starting.supply with replay := .done none } },
          { replayed with journal := { replayed.journal with failed := true } }, withBothHeld replayed,
          { replayed with tokens := { replayed.tokens with intake := [⟨.relay, tokenNumber 1 2 276 1 0⟩] } },
          { replayed with
            domain := { replayed.domain with penalty := ⟨5, 1, 1⟩, backup := .weak }
            tokens := { replayed.tokens with intake := [⟨.relay, tokenNumber 1 2 276 1 0⟩], service := .awaitDigest } }],
        Settled s ∧ s.supply.power = .starting ∧ s.supply.givenUp = false ∧ s.provisioning.condition = .valid
          ∧ s.domain.clock.timeSet = true)
      ∧ tokenSerial (tokenNumber 1 2 276 1 0) ≠ 0
      ∧ (Settled running ∧ running.supply.power ≠ .starting)
      ∧ Settled { replayed with supply := { replayed.supply with givenUp := true } } := by
  and_intros <;> decide +kernel

/-- A warm start with the battery 1 mV below F1 and a WEAK cell raises SHED_LEVEL and BACKUP_WEAK (R130, Table 10-3). -/
theorem test_start_notices :
    (after (.startEvent .tokenFirst) { replayed with
        account := .start
        supply := { replayed.supply with battery := 11999 }
        domain := { replayed.domain with backup := .weak } }).link.notices = 0x1040#16 := by
  decide +kernel

/-- Cold starts: of a provisioned part, with and without an entry found, and of one with no record. -/
theorem witness_cold_starts :
    (Settled { replayed with domain := .fresh } ∧ ClockDomain.fresh.clock.timeSet = false
        ∧ replayed.provisioning.condition = .valid)
      ∧ Settled { starting with domain := .fresh, supply := { starting.supply with replay := .done none } }
      ∧ Settled { withBothHeld replayed with domain := .fresh }
      ∧ (Settled { State.reset with supply := { State.reset.supply with replay := .done none } }
        ∧ State.reset.provisioning.condition ≠ .valid ∧ State.reset.supply.power = .starting) := by
  and_intros <;> decide +kernel

/-- A METER request held in STARTING is answered at the restore, before the power state becomes RUN: it reports sampling
no, while the part ends in RUN with sampling yes (R98, R130). -/
theorem test_held_meter_at_restore :
    let t := after (.startEvent .tokenFirst)
      { replayed with
        account := .start
        meter := { Meter.start with held := [⟨0, 7, 6, []⟩] }
        link := { running.link with handed := [0], nextId := 1 } }
    t.meter.sampling = true ∧ t.link.replies.map (fun r => (r.tag, r.body[79]?)) = [(7, some 0)] := by
  decide +kernel

/-- Replay not yet asked for. -/
theorem witness_no_replay : ∀ found, starting.supply.replay ≠ .done found := by
  intro found h
  cases h

theorem witness_power :
    (Settled asleep ∧ asleep.supply.power = .off ∧ asleep.domain.powered = true)
      ∧ (Settled running ∧ running.supply.power ≠ .off ∧ FlashWf running.flash ∧ running.journal.op = .none)
      ∧ (Settled (writing (.tally false)) ∧ Settled erasing)
      ∧ (Settled { asleep with domain := .off } ∧ ClockDomain.off.powered = false) := by
  and_intros <;> decide +kernel

/-- The record of a part that sleeps is written, and not being programmed. -/
theorem witness_power_up :
    (∃ f check, asleep.provisioning.otp = .written f check) ∧ ∀ f, asleep.provisioning.phase ≠ .programming f :=
  ⟨⟨_, _, rfl⟩, fun _ h => nomatch h⟩

/-- A flash with a sector headed by that checkpoint and the entry after it. -/
def history : Flash := [(60, .entry checkpoint (slotImage checkpoint)), (61, .entry tokenEntry (slotImage tokenEntry))]

theorem witness_history_page :
    (∃ x ∈ history, x.2.valid = some tokenEntry) ∧ tokenEntry.kind = .token entry.body ∧ tokenEntry.sequence < 8 :=
  ⟨⟨(61, .entry tokenEntry (slotImage tokenEntry)), by simp [history], valid_sealed ..⟩, rfl, by decide⟩

/-- Replay: nothing to find, and a walk over one entry that ends at a blank slot. -/
theorem witness_replay :
    (∀ sector < 8, (flashRead State.reset.flash (sector * 60)).valid = none)
      ∧ ((flashRead history 60).valid = some checkpoint ∧ checkpoint.kind = .checkpoint ⟨40, [12]⟩ 0
        ∧ (∀ other < 8, other ≠ 1 → flashRead history (other * 60) = .blank)
        ∧ (flashRead history 61).valid = some tokenEntry ∧ tokenEntry.sequence = checkpoint.sequence + 1
        ∧ flashRead history 62 = .blank ∧ 2 ≤ goodSectors 0) :=
  ⟨by decide, valid_sealed .., rfl, by decide, valid_sealed .., rfl, rfl, by decide⟩

/-- The walks that do not end so: a damaged slot after the walk, and a valid entry of a higher sequence elsewhere. -/
theorem witness_replay_dirty :
    flashRead (flashWrite history 62 .damaged) 62 ≠ .blank
      ∧ (∃ x ∈ flashWrite history 0 (.entry tallyEntry (slotImage tallyEntry)),
          x.2.valid = some tallyEntry ∧ tokenEntry.sequence < tallyEntry.sequence) := by
  refine ⟨by decide, (0, .entry tallyEntry (slotImage tallyEntry)), ?_, valid_sealed .., by decide⟩
  simp [history, flashWrite]

/-- A loss of supply in a checkpoint's write, and in a programming. -/
theorem witness_losses :
    (Settled (heading .ordinary []) ∧ (heading .ordinary []).supply.power ≠ .off ∧ FlashWf (heading .ordinary []).flash)
      ∧ (Settled programming ∧ programming.supply.power ≠ .off ∧ FlashWf programming.flash) := by
  and_intros <;> decide +kernel

end Sys2Proof.Tests
end

section
/-! The credit account: what a tally and a catch-up leave of an account that pays nothing, and what each token makes of the account (R13, R17 to R20, R30). -/

namespace Sys2Proof.Machine

/-! ## Accounts that a tally charges nothing (R13) -/

@[simp] theorem activateTariff_ht (f : Settings) (a : Account) : (activateTariff f a).ht = a.ht := by
  unfold activateTariff
  split
  · rfl
  · dsimp only
    split <;> rfl

@[simp] theorem dayBoundary_ht (f : Settings) (a : Account) : (dayBoundary f a).ht = a.ht :=
  activateTariff_ht f a

@[simp] theorem withBoundary_ht (f : Settings) (due : Bool) (c : Charged) :
    (withBoundary f due c).acct.ht = c.acct.ht := by
  cases due
  · rfl
  · exact dayBoundary_ht f c.acct

theorem tallyAccount_of_unprovisioned (t : Tariff) (counts : PerPort Nat) (point : ClockTime) (a : Account)
    (h : a.state = .unprovisioned) : tallyAccount t counts point a = a := by
  simp only [tallyAccount, h]

theorem tallyAccount_of_locked_or_paidOff (t : Tariff) (counts : PerPort Nat) (point : ClockTime) (a : Account)
    (h : a.state = .locked ∨ a.state = .paidOff) :
    tallyAccount t counts point a = { a with marks := counts, lastTally := point } := by
  obtain h | h := h <;> simp only [tallyAccount, h]

theorem tallyAccount_ht_of_retired (t : Tariff) (counts : PerPort Nat) (point : ClockTime) (a : Account)
    (h : a.state = .locked ∨ a.state = .paidOff ∨ a.state = .unprovisioned) :
    (tallyAccount t counts point a).ht = a.ht := by
  obtain h | h | h := h
  · rw [tallyAccount_of_locked_or_paidOff t counts point a (.inl h)]
  · rw [tallyAccount_of_locked_or_paidOff t counts point a (.inr h)]
  · rw [tallyAccount_of_unprovisioned t counts point a h]

theorem catchUpCharge_of_retired (t : Tariff) (n : Nat) (a : Account)
    (h : a.state = .locked ∨ a.state = .paidOff ∨ a.state = .unprovisioned) : catchUpCharge t n a = a := by
  obtain h | h | h := h <;> simp only [catchUpCharge, h]

theorem tallyAndBoundary_ht_of_retired (f : Settings) (counts : PerPort Nat) (point : ClockTime) (a : Account)
    (h : a.state = .locked ∨ a.state = .paidOff ∨ a.state = .unprovisioned) :
    (tallyAndBoundary f counts point a).acct.ht = a.ht := by
  unfold tallyAndBoundary
  rw [withBoundary_ht]
  exact tallyAccount_ht_of_retired _ counts point a h

theorem catchUp_ht_of_retired (f : Settings) (n : Nat) (crossing : Bool) (upTo : ClockTime) (a : Account)
    (h : a.state = .locked ∨ a.state = .paidOff ∨ a.state = .unprovisioned) :
    (catchUp f n crossing upTo a).acct.ht = a.ht := by
  unfold catchUp
  rw [withBoundary_ht, catchUpCharge_of_retired _ n a h]

theorem takeTallyPoint_of_unprovisioned (point : ClockTime) (s : State)
    (h : s.account.acct.state = .unprovisioned) : takeTallyPoint point s = s :=
  if_neg fun hc => hc.2 h

/-- What the submission of a TALLY makes of the journal depends on the journal alone (R136, R137). -/
theorem submitTally_journal_congr (restart : Bool) (s t : State) (h : s.journal = t.journal) :
    (submitTally restart s).journal = (submitTally restart t).journal := by
  unfold submitTally
  rw [h]
  split
  · exact h
  · split <;> rfl

theorem performTally_journal (point : ClockTime) (s : State) :
    (performTally point s).journal =
      if point.minute % 60 = 0 then (submitTally false s).journal else s.journal := by
  unfold performTally
  dsimp only
  split
  · exact submitTally_journal_congr false _ s (takeCharged_journal _ s)
  · exact takeCharged_journal _ s

/-- Settles O37: the arms of the tally and of the catch-up for the three states, and a boundary that leaves Ht. -/
theorem retiredTallies : Obligations.RetiredTallies := by
  intro f t counts point a
  exact ⟨tallyAccount_of_locked_or_paidOff t counts point a, tallyAccount_of_unprovisioned t counts point a,
    fun h => ⟨tallyAndBoundary_ht_of_retired f counts point a h,
      fun n crossing upTo => catchUp_ht_of_retired f n crossing upTo a h⟩,
    takeTallyPoint_of_unprovisioned point, performTally_journal point⟩

/-! ## RELOCK (R19) -/

/-- After RELOCK the law of the lifetime counters (R3) stands with neither balance nor debt in it. -/
theorem relock_counters (t : Tariff) (a : Account) (law : a.balance + a.ht + a.vt = a.debt + a.ct + a.ft) :
    (relock t a).ht + (relock t a).vt = (relock t a).ct + (relock t a).ft := by
  simp only [relock]
  omega

/-! ## GRANT_GRACE (R20) -/

theorem grantGrace_of_locked (d : Nat) (a : Account) (h : a.state = .locked) :
    grantGrace d a = { a with state := .grace, graceBudget := d * 1440, graceArmed := false } := by
  simp only [grantGrace, h]

theorem grantGrace_of_grace (d : Nat) (a : Account) (h : a.state = .grace) :
    grantGrace d a = { a with graceBudget := min (a.graceBudget + d * 1440) 10080 } := by
  simp only [grantGrace, h]

theorem applicable_grantGrace_iff (f : Settings) (d : Nat) (a : Account) :
    applicable f .grantGrace d a = true ↔
      a.state = .grace ∨ a.state = .locked ∧ a.debt < (tariffOf f a.activeTariff).debtLimit := by
  simp [applicable]

/-! ## Credits (R17) -/

/-- A credit brings the balance what the debt does not take of it. -/
@[simp] theorem creditAccount_balance (t : Tariff) (amount : Nat) (a : Account) :
    (creditAccount t amount a).balance = a.balance + (amount - a.debt) := by
  have left : amount - min amount a.debt = amount - a.debt := by omega
  simp only [creditAccount, left]
  split <;> split <;> rfl

@[simp] theorem creditAccount_debt (t : Tariff) (amount : Nat) (a : Account) :
    (creditAccount t amount a).debt = a.debt - amount := by
  have left : a.debt - min amount a.debt = a.debt - amount := by omega
  simp only [creditAccount, left]
  split <;> split <;> rfl

@[simp] theorem creditAccount_ct (t : Tariff) (amount : Nat) (a : Account) :
    (creditAccount t amount a).ct = a.ct + amount := by
  simp only [creditAccount]
  split <;> split <;> rfl

/-- A credit above the debt leaves a balance above 0, so the account is ACTIVE, and grace is armed where R4 arms it. -/
theorem creditAccount_of_debt_lt (t : Tariff) (amount : Nat) (a : Account) (h : a.debt < amount) :
    (creditAccount t amount a).state = .active ∧ (creditAccount t amount a).graceBudget = 0
      ∧ (creditAccount t amount a).graceArmed =
          (a.graceArmed || decide (t.standing ≤ a.balance + (amount - a.debt) ∧ 0 < t.graceDays)) := by
  have repaid : min amount a.debt = a.debt := by omega
  have positive : 0 < a.balance + (amount - a.debt) := by omega
  simp only [creditAccount, repaid, positive, Nat.sub_self, if_true, true_and]
  split
  next arms => simp [arms]
  next unarmed => simp [unarmed]

/-! ## FORGIVE_DEBT and PAYOFF (R18) -/

theorem forgiveDebt_eq (amount : Nat) (a : Account) :
    forgiveDebt amount a = { a with debt := a.debt - amount, ft := a.ft + min amount a.debt } := by
  have left : a.debt - min amount a.debt = a.debt - amount := by omega
  rw [forgiveDebt, left]

theorem applicable_forgiveDebt_iff (f : Settings) (d : Nat) (a : Account) :
    applicable f .forgiveDebt d a = true ↔ a.state ≠ .paidOff ∧ a.debt ≠ 0 := by
  simp [applicable]

/-- In PAID_OFF there is no debt and no budget for PAYOFF to remove (R1, R5). -/
theorem payOff_of_paidOff (a : Account) (ok : AccountOk a) (h : a.state = .paidOff) : payOff a = a := by
  obtain ⟨-, -, -, -, -, -, noDebt, noBudget, -⟩ := ok
  have debt : a.debt = 0 := noDebt h
  have budget : a.graceBudget = 0 := noBudget (by simp [h])
  cases a
  cases h
  cases debt
  cases budget
  rfl

/-! ## SET_TARIFF (R30) -/

theorem stageTariff_active (a : Account) : stageTariff a.activeTariff a = { a with stagedTariff := none } :=
  if_pos rfl

theorem stageTariff_of_ne (n : Nat) (a : Account) (h : n ≠ a.activeTariff) :
    stageTariff n a = { a with stagedTariff := some n } :=
  if_neg h

theorem applicable_setTariff_iff (f : Settings) (n : Nat) (a : Account) :
    applicable f .setTariff n a = true ↔ a.state ≠ .paidOff ∧ ∃ x ∈ f.tariffs, x.number = n := by
  simp [applicable, hasTariff]

/-! ## The tokens together -/

/-- Settles O38: each token's effect and its test, by the lemmas above; the effect applied is the kind's own. -/
theorem tokenEffects : Obligations.TokenEffects := by
  rintro f a d amount t rfl
  refine ⟨rfl, relock_counters _ a, fun locked below => ?_, fun grace => ?_, fun elsewhere => ?_, fun within => ?_,
    fun above => ?_, creditAccount_ct _ amount a, forgiveDebt_eq amount a, applicable_forgiveDebt_iff f d a, rfl,
    payOff_of_paidOff a, rfl, rfl, rfl, stageTariff_active a, stageTariff_of_ne d a, applicable_setTariff_iff f d a,
    fun v => ⟨rfl, rfl, rfl, rfl, rfl, rfl, rfl, rfl⟩⟩
  case refine_1 =>
    exact ⟨(applicable_grantGrace_iff f d a).2 (.inr ⟨locked, below⟩), grantGrace_of_locked d a locked⟩
  case refine_2 => exact ⟨(applicable_grantGrace_iff f d a).2 (.inl grace), grantGrace_of_grace d a grace⟩
  case refine_3 =>
    rw [Bool.eq_false_iff, ne_eq, applicable_grantGrace_iff]
    rintro (grace | ⟨locked, below⟩)
    · simp [grace] at elsewhere
    · obtain ⟨notLocked, -⟩ | ⟨-, atLimit⟩ := elsewhere
      · exact notLocked locked
      · omega
  case refine_4 =>
    have nothingLeft : amount - a.debt = 0 := by omega
    exact ⟨creditAccount_debt _ amount a, by rw [creditAccount_balance, nothingLeft, Nat.add_zero]⟩
  case refine_5 =>
    have noDebt : a.debt - amount = 0 := by omega
    exact ⟨by rw [creditAccount_debt, noDebt], creditAccount_balance _ amount a,
      creditAccount_of_debt_lt _ amount a above⟩

end Sys2Proof.Machine
end

section
/-! The invariants, kept together: what one change of a block must meet for the whole part to keep every invariant,
then each operation of the model, then every step (O3 to O5). -/

namespace Sys2Proof.Machine

/-! ## What a change keeps -/

/-- From `s` to `t` the queue stands and every invariant of the part is kept. -/
structure Keeps (s t : State) : Prop where
  pending : t.pending = s.pending
  accounts : AccountsOk s → AccountsOk t
  ports : PortsOk s → PortsOk t
  flash : FlashWf s.flash → FlashWf t.flash
  capacity : Capacity s → Capacity t
  ids : IdsOk s → IdsOk t
  power : PowerOk s → PowerOk t
  relay : RelayOk s.relay → RelayOk t.relay

theorem Keeps.refl (s : State) : Keeps s s := ⟨rfl, id, id, id, id, id, id, id⟩

theorem Keeps.trans {s t u : State} (h : Keeps s t) (k : Keeps t u) : Keeps s u where
  pending := k.pending.trans h.pending
  accounts := k.accounts ∘ h.accounts
  ports := k.ports ∘ h.ports
  flash := k.flash ∘ h.flash
  capacity := k.capacity ∘ h.capacity
  ids := k.ids ∘ h.ids
  power := k.power ∘ h.power
  relay := k.relay ∘ h.relay

/-- `Keeps.trans` with the later change named first, which is the one that a goal shows. -/
theorem Keeps.after {s t u : State} (k : Keeps t u) (h : Keeps s t) : Keeps s u := h.trans k

/-! ## One block changed -/

/-- A change of the link that keeps its numbers fresh, its replies within four, and a line unread without an awake core. -/
structure LinkStep (awake : Bool) (l m : Link) : Prop where
  receiving : m.receiving = true → l.receiving = true ∨ awake = true
  nextId : l.nextId ≤ m.nextId
  held : ∀ h ∈ m.held, h ∈ l.held ∨ h.id < m.nextId
  handed : ∀ i ∈ m.handed, i ∈ l.handed ∨ i < m.nextId
  cancelled : ∀ i ∈ m.cancelled, i ∈ l.cancelled ∨ i ∈ l.handed
  replies : m.replyCount ≤ l.replyCount ∨ m.replyCount ≤ 4

theorem Keeps.link {s : State} (l : Link) (h : LinkStep s.supply.power.awake s.link l) :
    Keeps s { s with link := l } where
  pending := rfl
  accounts a := ⟨a.otp, a.phase, a.acct, a.queue, a.op, a.work, a.flash, a.replay⟩
  ports := id
  flash := id
  capacity := fun ⟨intake, records, receipts, replies⟩ =>
    ⟨intake, records, receipts, h.replies.elim (fun le => le.trans replies) id⟩
  ids := by
    rintro ⟨held, handed, cancelled⟩
    have raised := h.nextId
    refine ⟨fun x hx => (h.held x hx).elim (fun m => ?_) id, fun i hi => (h.handed i hi).elim (fun m => ?_) id,
      fun i hi => (h.cancelled i hi).elim (fun m => ?_) (fun m => ?_)⟩
    · exact (held x m).trans_le raised
    · exact (handed i m).trans_le raised
    · exact (cancelled i m).trans_le raised
    · exact (handed i m).trans_le raised
  power := fun ⟨switching, sampling, receiving, loaded⟩ =>
    ⟨switching, sampling, fun r => (h.receiving r).elim receiving id, loaded⟩
  relay := id

/-- A link whose numbers, replies and reading of the line stand. -/
theorem LinkStep.of_same {awake : Bool} {l m : Link} (receiving : m.receiving = l.receiving) (held : m.held = l.held)
    (handed : m.handed = l.handed) (cancelled : m.cancelled = l.cancelled) (nextId : m.nextId = l.nextId)
    (replies : m.replyCount ≤ l.replyCount) : LinkStep awake l m where
  receiving r := .inl (receiving ▸ r)
  nextId := nextId.ge
  held _ hx := .inl (held ▸ hx)
  handed _ hi := .inl (handed ▸ hi)
  cancelled _ hi := .inl (cancelled ▸ hi)
  replies := .inl replies

theorem Keeps.digests {s : State} (ds : List DigestRequest) : Keeps s { s with digests := ds } where
  pending := rfl
  accounts a := ⟨a.otp, a.phase, a.acct, a.queue, a.op, a.work, a.flash, a.replay⟩
  ports := id
  flash := id
  capacity := id
  ids := id
  power := id
  relay := id

theorem Keeps.domain {s : State} (d : ClockDomain) : Keeps s { s with domain := d } where
  pending := rfl
  accounts a := ⟨a.otp, a.phase, a.acct, a.queue, a.op, a.work, a.flash, a.replay⟩
  ports := id
  flash := id
  capacity := id
  ids := id
  power := id
  relay := id

theorem Keeps.tokens {s : State} (u : TokenUnit) (h : s.tokens.intake.length ≤ 4 → u.intake.length ≤ 4) :
    Keeps s { s with tokens := u } where
  pending := rfl
  accounts a := ⟨a.otp, a.phase, a.acct, a.queue, a.op, a.work, a.flash, a.replay⟩
  ports := id
  flash := id
  capacity := fun ⟨intake, rest⟩ => ⟨h intake, rest⟩
  ids := id
  power := id
  relay := id

theorem Keeps.meter {s : State} (m : Meter) (h : m.sampling = s.meter.sampling) : Keeps s { s with meter := m } where
  pending := rfl
  accounts a := ⟨a.otp, a.phase, a.acct, a.queue, a.op, a.work, a.flash, a.replay⟩
  ports := id
  flash := id
  capacity := id
  ids := id
  power := fun ⟨switching, sampling, rest⟩ => ⟨switching, h ▸ sampling, rest⟩
  relay := id

/-- A change of the relay store that keeps its lists distinct, in range and within their capacities. -/
structure RelayStep (x y : RelayStore) : Prop where
  relay : RelayOk x → RelayOk y
  records : x.records.length ≤ 48 → y.records.length ≤ 48
  receipts : x.receipts.length ≤ 32 → y.receipts.length ≤ 32

theorem Keeps.store {s : State} (x : RelayStore) (h : RelayStep s.relay x) : Keeps s { s with relay := x } where
  pending := rfl
  accounts a := ⟨a.otp, a.phase, a.acct, a.queue, a.op, a.work, a.flash, a.replay⟩
  ports := id
  flash := id
  capacity := fun ⟨intake, records, receipts, replies⟩ => ⟨intake, h.records records, h.receipts receipts, replies⟩
  ids := id
  power := id
  relay := h.relay

theorem Keeps.ports_of {s : State} (x : PerPort Port) (h : PortsOk s → PortsOk { s with switches.ports := x }) :
    Keeps s { s with switches.ports := x } where
  pending := rfl
  accounts a := ⟨a.otp, a.phase, a.acct, a.queue, a.op, a.work, a.flash, a.replay⟩
  ports := h
  flash := id
  capacity := id
  ids := id
  power := id
  relay := id

theorem Keeps.account {s : State} (b : AccountBlock) (h : AccountsOk s → AccountOk b.acct)
    (loaded : s.account.loaded = true → b.loaded = true) : Keeps s { s with account := b } where
  pending := rfl
  accounts a := ⟨a.otp, a.phase, h a, a.queue, a.op, a.work, a.flash, a.replay⟩
  ports := id
  flash := id
  capacity := id
  ids := id
  power := fun ⟨switching, sampling, receiving, wasLoaded⟩ =>
    ⟨switching, sampling, receiving, fun r => loaded (wasLoaded r)⟩
  relay := id

theorem Keeps.journal {s : State} (j : Journal) (queue : AccountsOk s → ∀ q ∈ j.queue, QueuedOk q)
    (op : AccountsOk s → OpOk j.op) (work : AccountsOk s → WorkOk j.work) : Keeps s { s with journal := j } where
  pending := rfl
  accounts a := ⟨a.otp, a.phase, a.acct, queue a, op a, work a, a.flash, a.replay⟩
  ports := id
  flash := id
  capacity := id
  ids := id
  power := id
  relay := id

theorem Keeps.flash_of {s : State} (f : Flash) (wf : FlashWf s.flash → FlashWf f)
    (slots : AccountsOk s → ∀ x ∈ f, SlotOk x.2) : Keeps s { s with flash := f } where
  pending := rfl
  accounts a := ⟨a.otp, a.phase, a.acct, a.queue, a.op, a.work, slots a, a.replay⟩
  ports := id
  flash := wf
  capacity := id
  ids := id
  power := id
  relay := id

theorem Keeps.supply {s : State} (x : Supply) (power : x.power = s.supply.power)
    (replay : AccountsOk s → ReplayOk x.replay) : Keeps s { s with supply := x } where
  pending := rfl
  accounts a := ⟨a.otp, a.phase, a.acct, a.queue, a.op, a.work, a.flash, replay a⟩
  ports := id
  flash := id
  capacity := id
  ids := id
  power := by rintro p; simpa only [PowerOk, power] using p
  relay := id

theorem Keeps.provisioning {s : State} (x : Provisioning) (otp : AccountsOk s → OtpOk x.otp)
    (phase : AccountsOk s → PhaseOk x.phase) : Keeps s { s with provisioning := x } where
  pending := rfl
  accounts a := ⟨otp a, phase a, a.acct, a.queue, a.op, a.work, a.flash, a.replay⟩
  ports := id
  flash := id
  capacity := id
  ids := id
  power := id
  relay := id

theorem Keeps.idleMilliseconds {s : State} (n : Nat) : Keeps s { s with idleMilliseconds := n } where
  pending := rfl
  accounts a := ⟨a.otp, a.phase, a.acct, a.queue, a.op, a.work, a.flash, a.replay⟩
  ports := id
  flash := id
  capacity := id
  ids := id
  power := id
  relay := id

/-- The fields the Credit Account works with lie in their ranges. -/
theorem AccountsOk.settings {s : State} (h : AccountsOk s) : SettingsOk s.provisioning.settings := by
  have otp := h.otp
  unfold Provisioning.settings
  split
  case h_1 written => rw [written] at otp; exact otp
  case h_2 => exact unprovisionedSettings_ok

end Sys2Proof.Machine
end

section
/-! The invariants through the link, the account, the Token Unit and the Relay Store: each operation keeps them. -/

namespace Sys2Proof.Machine

/-! ## The link (R169, R171) -/

theorem queueNotice_step (awake : Bool) (l : Link) : LinkStep awake l l.queueNotice := by
  unfold Link.queueNotice
  split
  · exact .of_same rfl rfl rfl rfl rfl le_rfl
  · exact .of_same rfl rfl rfl rfl rfl (by simp [Link.replyCount, TxFrame.isReply])

theorem raise_keeps (c : NoticeCause) (s : State) : Keeps s (raise c s) := by
  have noted : Keeps s { s with link.notices := s.link.notices ||| causeBit c } :=
    .link _ (.of_same rfl rfl rfl rfl rfl le_rfl)
  unfold raise
  split
  case h_1 => exact .refl s
  case h_2 => exact noted
  case h_3 =>
    dsimp only
    split
    · exact noted.trans (.link _ (queueNotice_step _ _))
    · exact noted

theorem raiseIf_keeps (b : Bool) (c : NoticeCause) (s : State) : Keeps s (raiseIf b c s) := by
  unfold raiseIf
  split
  · exact raise_keeps c s
  · exact .refl s

theorem queueReply_step (awake : Bool) (r : Reply) (l : Link) : LinkStep awake l (l.queueReply r) := by
  unfold Link.queueReply
  split
  case isTrue room =>
    exact ⟨.inl, le_rfl, fun x hx => .inl (List.mem_of_mem_filter hx), fun _ hi => .inl hi, fun _ hi => .inl hi,
      .inr (by
        simp only [Link.replyCount, Link.release, List.filter_append, List.length_append] at room ⊢
        exact Nat.add_le_add (Nat.le_of_lt_succ room) (List.length_filter_le _ [TxFrame.reply r]))⟩
  case isFalse => exact .of_same rfl rfl rfl rfl rfl le_rfl

theorem completeReply_keeps (r : Reply) (s : State) : Keeps s (completeReply r s) := by
  have settled : Keeps s { s with link.handed := s.link.handed.filter (fun i => i ≠ r.id) } :=
    .link _ ⟨.inl, le_rfl, fun _ hx => .inl hx, fun i hi => .inl (List.mem_of_mem_filter hi), fun _ hi => .inl hi,
      .inl le_rfl⟩
  unfold completeReply
  split
  case h_1 => exact .refl s
  case h_2 => exact .refl s
  case h_3 =>
    dsimp only
    split
    · exact settled.trans (.link _ ⟨.inl, le_rfl, fun _ hx => .inl hx, fun _ hi => .inl hi,
        fun i hi => .inl (List.mem_of_mem_filter hi), .inl le_rfl⟩)
    · exact settled.trans (.link _ (queueReply_step _ r _))

theorem answer_keeps (req : Request) (body : List Byte) (s : State) : Keeps s (answer req body s) :=
  completeReply_keeps _ s

theorem answerResult_keeps (req : Request) (r : ReplyResult) (s : State) : Keeps s (answerResult req r s) :=
  completeReply_keeps _ s

theorem requestDigest_keeps (r : DigestRequest) (s : State) : Keeps s (requestDigest r s) := by
  unfold requestDigest
  split
  · exact .refl s
  · exact .refl s
  · exact .digests _

/-! ## The write queue (R136, R137) -/

theorem mergeLast_mem (restart : Bool) (qs merged : List Queued) (h : mergeLast restart qs = some merged) :
    ∀ q ∈ merged, q ∈ qs ∨ ∃ r, q = .tally r := by
  induction qs generalizing merged with
  | nil => simp [mergeLast] at h
  | cons x rest ih =>
    unfold mergeLast at h
    cases inRest : mergeLast restart rest with
    | some found =>
      simp only [inRest, Option.some.injEq] at h
      subst h
      exact List.forall_mem_cons.2
        ⟨.inl List.mem_cons_self, fun q hq => (ih found inRest q hq).imp_left (List.mem_cons_of_mem x)⟩
    | none =>
      cases x with
      | tally r =>
        simp only [inRest, Option.some.injEq] at h
        subst h
        exact List.forall_mem_cons.2 ⟨.inr ⟨_, rfl⟩, fun q hq => .inl (List.mem_cons_of_mem _ hq)⟩
      | suspend => simp [inRest] at h
      | token t => simp [inRest] at h

theorem joinTally_mem (restart : Bool) (qs : List Queued) :
    ∀ q ∈ joinTally restart qs, q ∈ qs ∨ ∃ r, q = .tally r := by
  unfold joinTally
  cases merged : mergeLast restart qs with
  | none =>
    exact List.forall_mem_append.2 ⟨fun _ hq => .inl hq, fun q hq => .inr ⟨restart, List.mem_singleton.1 hq⟩⟩
  | some list => exact mergeLast_mem restart qs list merged

theorem joinTally_ok (restart : Bool) (qs : List Queued) (h : ∀ q ∈ qs, QueuedOk q) :
    ∀ q ∈ joinTally restart qs, QueuedOk q := by
  intro q hq
  obtain old | ⟨r, rfl⟩ := joinTally_mem restart qs q hq
  · exact h q old
  · exact trivial

theorem submitTally_keeps (restart : Bool) (s : State) : Keeps s (submitTally restart s) := by
  unfold submitTally
  split
  case isTrue => exact .refl s
  case isFalse =>
    split
    case h_1 q rest _ held =>
      refine .journal _ (fun a => ?_) (fun a => a.op) (fun a => a.work)
      have ok := a.queue
      rw [held] at ok
      exact List.forall_mem_cons.2
        ⟨ok q List.mem_cons_self, joinTally_ok restart rest fun x hx => ok x (List.mem_cons_of_mem q hx)⟩
    case h_2 => exact .journal _ (fun a => joinTally_ok restart _ a.queue) (fun a => a.op) (fun a => a.work)

theorem submitEntry_keeps (q : Queued) (s : State) (h : AccountsOk s → QueuedOk q) : Keeps s (submitEntry q s) := by
  unfold submitEntry
  split
  · exact .refl s
  · refine .journal _ (fun a x hx => ?_) (fun a => a.op) (fun a => a.work)
    obtain old | rfl := List.mem_append.1 hx |>.imp_right List.mem_singleton.1
    · exact a.queue x old
    · exact h a

/-! ## The ports (06) -/

theorem onPort_keeps (i : Fin 4) (f : Port → Port) (s : State) (h : ∀ p, PortOk p → PortOk (f p)) :
    Keeps s (onPort i f s) := by
  have kept := fun ok : PortsOk s => onPort_ok i f s ok (h _)
  unfold onPort at kept ⊢
  split
  case isTrue switching =>
    rw [if_pos switching] at kept
    exact .ports_of _ kept
  case isFalse => exact .refl s

theorem onPorts_keeps (f : Port → Port) (s : State) (h : ∀ p, PortOk p → PortOk (f p)) : Keeps s (onPorts f s) := by
  have kept := fun ok : PortsOk s => onPorts_ok f s ok h
  unfold onPorts at kept ⊢
  split
  case isTrue switching =>
    rw [if_pos switching] at kept
    exact .ports_of _ kept
  case isFalse => exact .refl s

theorem giveCaps_keeps (s : State) : Keeps s (giveCaps s) := by
  have kept := giveCaps_ok s
  unfold giveCaps at kept ⊢
  dsimp only at kept ⊢
  split
  case isTrue switching =>
    rw [if_pos switching] at kept
    exact .ports_of _ kept
  case isFalse => exact .refl s

theorem giveShedLevel_keeps (s : State) : Keeps s (giveShedLevel s) := by
  have kept := giveShedLevels_ok s
  unfold giveShedLevel at kept ⊢
  split
  case isTrue switching =>
    rw [if_pos switching] at kept
    exact .ports_of _ kept
  case isFalse => exact .refl s

/-- A port trips only when its comparator is armed, which is what `trip_ok` asks. -/
theorem tripPort_keeps (i : Fin 4) (current : Nat) (s : State) : Keeps s (tripPort i current s) := by
  unfold tripPort
  dsimp only
  split
  case isTrue h =>
    simp only [Bool.and_eq_true] at h
    obtain ⟨⟨switching, armed⟩, -⟩ := h
    have kept := fun ok : PortsOk s => onPort_ok i Port.trip s ok fun p => trip_ok _ p armed
    have tripped : Keeps s (onPort i Port.trip s) := by
      unfold onPort at kept ⊢
      rw [if_pos switching] at kept ⊢
      exact .ports_of _ kept
    exact (tripped.trans (raise_keeps _ _)).trans (raiseIf_keeps _ _ _)
  case isFalse => exact .refl s

/-! ## The account (R6, R14, R21, R22) -/

theorem takeCharged_keeps (c : Charged) (s : State) (h : AccountsOk s → AccountOk c.acct) :
    Keeps s (takeCharged c s) := by
  have taken : Keeps s { s with account.acct := c.acct } := .account _ h id
  exact (((taken.trans (giveCaps_keeps _)).trans (raiseIf_keeps _ _ _)).trans (raiseIf_keeps _ _ _)).trans
    (raiseIf_keeps _ _ _)

theorem performTally_keeps (point : ClockTime) (s : State) : Keeps s (performTally point s) := by
  have taken := takeCharged_keeps (tallyAndBoundary s.provisioning.settings s.meter.counts point s.account.acct) s
    fun a => tallyAndBoundary_ok _ _ _ _ a.settings a.acct
  unfold performTally
  dsimp only
  split
  · exact taken.trans (submitTally_keeps _ _)
  · exact taken

theorem takeTallyPoint_keeps (point : ClockTime) (s : State) : Keeps s (takeTallyPoint point s) := by
  unfold takeTallyPoint
  split
  · split
    · exact .account _ (fun a => a.acct) id
    · exact performTally_keeps point s
  · exact .refl s

theorem releasePin_keeps (s : State) : Keeps s (releasePin s) := by
  have released : Keeps s { s with account.pinned := false, account.pendingTally := none } :=
    .account _ (fun a => a.acct) id
  unfold releasePin
  dsimp only
  split
  · exact released
  · split
    · exact released.trans (performTally_keeps _ _)
    · exact released

/-! ## The Token Unit (03) -/

theorem settleToken_keeps (r : TokenResult) (extra : List Byte) (s : State) : Keeps s (settleToken r extra s) := by
  unfold settleToken
  split
  case h_1 => exact .refl s
  case h_2 e rest held =>
    have left : Keeps s { s with tokens.intake := rest, tokens.service := .idle } :=
      .tokens _ fun le => by rw [held, List.length_cons] at le; exact Nat.le_of_succ_le le
    dsimp only
    split
    · exact left.trans (answer_keeps _ _ _)
    · refine (raise_keeps _ _).after (left.trans (.tokens _ ?_))
      exact id

theorem serveTokens_keeps (n : Nat) (s : State) : Keeps s (serveTokens n s) := by
  induction n generalizing s with
  | zero => exact .refl s
  | succ n ih =>
    unfold serveTokens
    split
    case isTrue =>
      split
      · exact .refl s
      · split
        · exact (settleToken_keeps _ _ s).trans (ih _)
        · refine (requestDigest_keeps _ _).after (.tokens _ ?_)
          exact id
    case isFalse => exact .refl s

theorem requestReceipt_keeps (serial : Nat) (s : State) : Keeps s (requestReceipt serial s) := requestDigest_keeps _ s

theorem joinIntake_keeps (e : IntakeEntry) (s : State) (h : s.tokens.hasRoom = true) : Keeps s (joinIntake e s) :=
  .tokens _ fun _ => by
    simp only [TokenUnit.hasRoom, decide_eq_true_eq] at h
    simpa using h

theorem submitToken_keeps (t : TokenEntry) (s : State) (h : AccountsOk s → AccountOk t.snapshot) :
    Keeps s (submitToken t s) := by
  have pinned : Keeps s { s with account.pinned := true, tokens.service := .inFlight } :=
    (Keeps.account { s.account with pinned := true } (fun a => a.acct) id).trans (.tokens _ id)
  by_cases ok : AccountsOk s
  · exact pinned.trans (submitEntry_keeps _ _ fun _ => h ok)
  · have submitted := submitEntry_keeps (.token t) { s with account.pinned := true, tokens.service := .inFlight }
      fun a => h ⟨a.otp, a.phase, a.acct, a.queue, a.op, a.work, a.flash, a.replay⟩
    exact pinned.trans submitted

theorem advancePenalty_keeps (src : TokenSource) (s : State) : Keeps s (advancePenalty src s) := by
  cases src with
  | keypad req => exact .domain _
  | relay => exact .refl s

theorem checkToken_keeps (e : IntakeEntry) (genuine : Bool) (s : State) : Keeps s (checkToken e genuine s) := by
  unfold checkToken
  split
  · exact (advancePenalty_keeps _ s).trans (settleToken_keeps _ _ _)
  · split
    · exact settleToken_keeps _ _ s
    · split
      · exact (settleToken_keeps _ _ s).trans (requestReceipt_keeps _ _)
      · exact settleToken_keeps _ _ s
      · split
        case h_1 => exact settleToken_keeps _ _ s
        case h_2 t evaluated =>
          exact submitToken_keeps t s fun a => evaluate_ok _ _ _ _ _ _ t a.settings a.acct evaluated

theorem tokenDigestDone_keeps (s : State) : Keeps s (tokenDigestDone s) := by
  unfold tokenDigestDone
  split
  · split
    · exact (Keeps.digests _).trans (checkToken_keeps _ _ _)
    · exact .refl s
  · exact .refl s

theorem commitNotices_keeps (before : AccountState) (t : TokenEntry) (s : State) :
    Keeps s (commitNotices before t s) :=
  ((raiseIf_keeps _ _ s).trans (raiseIf_keeps _ _ _)).trans (raiseIf_keeps _ _ _)

theorem deliverAccepted_keeps (t : TokenEntry) (s : State) : Keeps s (deliverAccepted t s) :=
  (settleToken_keeps _ _ s).trans (requestReceipt_keeps _ _)

theorem dropToken_keeps (s : State) : Keeps s (dropToken s) := (settleToken_keeps _ _ s).trans (releasePin_keeps _)

/-! ## The Relay Store's lists (09) -/

theorem sweep_step (day : Nat) (x : RelayStore) : RelayStep x (x.sweep day) where
  relay := fun ⟨distinct, distinctReceipts, hops, hands, items⟩ =>
    ⟨distinct.filter _, distinctReceipts.filter _, fun r hr => hops r (List.mem_of_mem_filter hr),
      fun r hr => hands r (List.mem_of_mem_filter hr), items⟩
  records := (List.length_filter_le _ _).trans
  receipts := (List.length_filter_le _ _).trans

theorem isFor_iff (kit serial : Nat) (r : RelayRecord) :
    r.isFor kit serial = true ↔ r.destination = kit ∧ tokenSerial r.token = serial := by
  simp [RelayRecord.isFor]

theorem receipt_isFor_iff (kit serial : Nat) (r : Receipt) :
    r.isFor kit serial = true ↔ r.kit = kit ∧ r.serial = serial := by
  simp [Receipt.isFor]

theorem evictDay_sublist (day : Nat) (xs : List Receipt) : (evictDay day xs).Sublist xs := by
  induction xs with
  | nil => exact .slnil
  | cons r rest ih =>
    unfold evictDay
    split
    · exact List.sublist_cons_self r rest
    · exact ih.cons_cons r

theorem lowestDay_mem (xs : List Receipt) (d : Nat) (h : lowestDay xs = some d) : ∃ r ∈ xs, r.created = d := by
  induction xs generalizing d with
  | nil => cases h
  | cons r rest ih =>
    unfold lowestDay at h
    split at h
    case h_1 => exact ⟨r, List.mem_cons_self, Option.some.inj h⟩
    case h_2 d' found =>
      obtain ⟨x, hx, created⟩ := ih d' found
      obtain rfl := Option.some.inj h
      obtain first | later := min_choice r.created d'
      · exact ⟨r, List.mem_cons_self, first.symm⟩
      · exact ⟨x, List.mem_cons_of_mem r hx, created.trans later.symm⟩

theorem evictDay_length (day : Nat) (xs : List Receipt) (h : ∃ r ∈ xs, r.created = day) :
    (evictDay day xs).length + 1 = xs.length := by
  induction xs with
  | nil => simp at h
  | cons r rest ih =>
    unfold evictDay
    split
    case isTrue => rfl
    case isFalse other =>
      obtain ⟨x, hx, created⟩ := h
      obtain rfl | hx := List.mem_cons.1 hx
      · exact absurd created other
      · simpa using ih ⟨x, hx, created⟩

/-- The list a receipt is added to: the list itself, or the list without one receipt. -/
theorem addReceipt_eq (r : Receipt) (xs : List Receipt) :
    addReceipt r xs = xs ∨
      ∃ ys, addReceipt r xs = ys ++ [r] ∧ ys.Sublist xs ∧ (xs.length ≤ 32 → ys.length ≤ 31)
        ∧ xs.any (Receipt.isFor r.kit r.serial) = false := by
  unfold addReceipt
  split
  case isTrue => exact .inl rfl
  case isFalse fresh =>
    rw [Bool.not_eq_true] at fresh
    split
    case isTrue room => exact .inr ⟨xs, rfl, .refl xs, fun _ => Nat.le_of_lt_succ room, fresh⟩
    case isFalse full =>
      cases lowest : lowestDay xs with
      | none =>
        cases xs with
        | nil => exact absurd (Nat.zero_lt_succ 31) full
        | cons x rest =>
          unfold lowestDay at lowest
          split at lowest <;> cases lowest
      | some d =>
        refine .inr ⟨evictDay d xs, rfl, evictDay_sublist d xs, fun le => ?_, fresh⟩
        have := evictDay_length d xs (lowestDay_mem xs d lowest)
        omega

theorem addReceipt_length (r : Receipt) (xs : List Receipt) (h : xs.length ≤ 32) : (addReceipt r xs).length ≤ 32 := by
  obtain same | ⟨ys, added, -, short, -⟩ := addReceipt_eq r xs
  · rwa [same]
  · rw [added, List.length_append]
    exact Nat.succ_le_succ (short h)

theorem addReceipt_distinct (r : Receipt) (xs : List Receipt)
    (h : xs.Pairwise (fun a b => ¬(a.kit = b.kit ∧ a.serial = b.serial))) :
    (addReceipt r xs).Pairwise (fun a b => ¬(a.kit = b.kit ∧ a.serial = b.serial)) := by
  obtain same | ⟨ys, added, sub, -, fresh⟩ := addReceipt_eq r xs
  · rwa [same]
  · rw [added, List.pairwise_append]
    refine ⟨h.sublist sub, List.pairwise_singleton _ r, fun a ha b hb => ?_⟩
    obtain rfl := List.mem_singleton.1 hb
    rw [← receipt_isFor_iff, Bool.not_eq_true]
    exact Bool.eq_false_iff.2 (List.any_eq_false.1 fresh a (sub.subset ha))

theorem addReceipt_mem (r : Receipt) (xs : List Receipt) : ∀ x ∈ addReceipt r xs, x ∈ xs ∨ x = r := by
  intro x hx
  obtain same | ⟨ys, added, sub, -⟩ := addReceipt_eq r xs
  · exact .inl (same ▸ hx)
  · rw [added] at hx
    exact (List.mem_append.1 hx).imp (fun hx => sub.subset hx) List.mem_singleton.1

theorem addReceipt_step (r : Receipt) (x : RelayStore) (hr : r.hands ≤ 2) :
    RelayStep x { x with receipts := addReceipt r x.receipts } where
  relay := fun ⟨distinct, distinctReceipts, hops, hands, items⟩ =>
    ⟨distinct, addReceipt_distinct r _ distinctReceipts, hops,
      fun y hy => (addReceipt_mem r _ y hy).elim (hands y) fun eq => eq ▸ hr, items⟩
  records := id
  receipts := addReceipt_length r _

/-- A change of the records that keeps them distinct and within 48, and in range where what is put in is. -/
structure RecordsStep (inRange : Prop) (xs ys : List RelayRecord) : Prop where
  distinct : xs.Pairwise (fun a b => ¬(a.destination = b.destination ∧ tokenSerial a.token = tokenSerial b.token)) →
    ys.Pairwise (fun a b => ¬(a.destination = b.destination ∧ tokenSerial a.token = tokenSerial b.token))
  range : inRange → (∀ r ∈ xs, r.hop ≤ 6 ∧ r.offers ≤ 5) → ∀ r ∈ ys, r.hop ≤ 6 ∧ r.offers ≤ 5
  length : xs.length ≤ 48 → ys.length ≤ 48

theorem RecordsStep.refl (inRange : Prop) (xs : List RelayRecord) : RecordsStep inRange xs xs := ⟨id, fun _ => id, id⟩

theorem RecordsStep.of_sublist {xs ys : List RelayRecord} (h : ys.Sublist xs) : RecordsStep True xs ys :=
  ⟨fun d => d.sublist h, fun _ r x hx => r x (h.subset hx), h.length_le.trans⟩

theorem RecordsStep.store {inRange : Prop} {x : RelayStore} {ys : List RelayRecord}
    (h : RecordsStep inRange x.records ys) (r : RelayOk x → inRange) : RelayStep x { x with records := ys } where
  relay ok :=
    have ⟨distinct, distinctReceipts, hops, hands, items⟩ := ok
    ⟨h.distinct distinct, distinctReceipts, h.range (r ok) hops, hands, items⟩
  records := h.length
  receipts := id

/-- Records changed one by one, each keeping its destination and serial. -/
theorem RecordsStep.map {inRange : Prop} {xs : List RelayRecord} (f : RelayRecord → RelayRecord)
    (dest : ∀ r, (f r).destination = r.destination) (token : ∀ r, (f r).token = r.token)
    (range : ∀ r, r.hop ≤ 6 ∧ r.offers ≤ 5 → (f r).hop ≤ 6 ∧ (f r).offers ≤ 5) :
    RecordsStep inRange xs (xs.map f) where
  distinct d := List.pairwise_map.2 (d.imp fun ne => by simpa only [dest, token] using ne)
  range _ ok := List.forall_mem_map.2 fun r hr => range r (ok r hr)
  length le := by rwa [List.length_map]

/-- A record of a new destination and serial joins the tail. -/
theorem RecordsStep.append {inRange : Prop} {xs ys : List RelayRecord} (r : RelayRecord) (sub : ys.Sublist xs)
    (fresh : xs.any (RelayRecord.isFor r.destination (tokenSerial r.token)) = false)
    (hop : inRange → r.hop ≤ 6) (offers : r.offers ≤ 5) (room : xs.length ≤ 48 → ys.length ≤ 47) :
    RecordsStep inRange xs (ys ++ [r]) where
  distinct d := by
    rw [List.pairwise_append]
    refine ⟨d.sublist sub, List.pairwise_singleton _ r, fun a ha b hb => ?_⟩
    obtain rfl := List.mem_singleton.1 hb
    rw [← isFor_iff]
    exact List.any_eq_false.1 fresh a (sub.subset ha)
  range r ok x hx := (List.mem_append.1 hx).elim (fun hx => ok x (sub.subset hx)) fun hx => by
    obtain rfl := List.mem_singleton.1 hx
    exact ⟨hop r, offers⟩
  length le := by
    rw [List.length_append]
    exact Nat.succ_le_succ (room le)

theorem victim_mem (xs : List RelayRecord) (v : RelayRecord) (h : victim xs = some v) : v ∈ xs := by
  induction xs generalizing v with
  | nil => cases h
  | cons r rest ih =>
    unfold victim at h
    split at h
    case h_1 => exact Option.some.inj h ▸ List.mem_cons_self
    case h_2 w found =>
      obtain rfl := Option.some.inj h
      split
      · exact List.mem_cons_self
      · exact List.mem_cons_of_mem r (ih w found)

theorem victim_none (xs : List RelayRecord) (h : victim xs = none) : xs = [] := by
  cases xs with
  | nil => rfl
  | cons r rest =>
    unfold victim at h
    split at h <;> cases h

theorem removeRecord_sublist (destination serial : Nat) (xs : List RelayRecord) :
    (removeRecord destination serial xs).Sublist xs := List.filter_sublist

theorem removeRecord_length (v : RelayRecord) (xs : List RelayRecord) (h : v ∈ xs) :
    (removeRecord v.destination (tokenSerial v.token) xs).length < xs.length :=
  List.length_filter_lt_length_iff_exists.2 ⟨v, h, by simp [RelayRecord.isFor]⟩

theorem evaluateRecord_step (day : Nat) (x : RelayStore) (destination : Nat) (token : BitVec 66)
    (issue expiry hop : Nat) (env : BitVec 32) :
    RecordsStep (hop ≤ 7) x.records (evaluateRecord day x destination token issue expiry hop env).2 := by
  unfold evaluateRecord
  dsimp only
  split
  case isTrue => exact .refl _ _
  case isFalse notLimit =>
    have hop6 : hop ≤ 7 → hop ≤ 6 := by omega
    split
    case isTrue => exact .refl _ _
    case isFalse =>
      split
      case isTrue =>
        refine .map _ (fun r => by split <;> rfl) (fun r => by split <;> rfl) fun r ok => ?_
        split
        · exact ⟨(min_le_left _ _).trans ok.1, ok.2⟩
        · exact ok
      case isFalse fresh =>
        rw [Bool.not_eq_true] at fresh
        split
        case isTrue room => exact .append _ (.refl _) fresh hop6 (Nat.zero_le 5) fun _ => Nat.le_of_lt_succ room
        case isFalse full =>
          split
          case h_1 none => rw [victim_none _ none] at full; exact absurd (Nat.zero_lt_succ 47) full
          case h_2 v found =>
            split
            case isTrue =>
              refine .append _ (removeRecord_sublist _ _ _) fresh hop6 (Nat.zero_le 5) fun le => ?_
              have fewer := removeRecord_length v _ (victim_mem _ v found)
              omega
            case isFalse => exact .refl _ _

theorem filterMap_records_step (f : RelayRecord → Option RelayRecord) (xs : List RelayRecord)
    (same : ∀ r r', f r = some r' → r'.destination = r.destination ∧ r'.token = r.token ∧ r'.hop = r.hop)
    (offers : ∀ r r', r.offers ≤ 5 → f r = some r' → r'.offers ≤ 5) : RecordsStep True xs (xs.filterMap f) where
  distinct d := List.pairwise_filterMap.2 (d.imp fun ne a ha b hb eq => by
    obtain ⟨dest, token, -⟩ := same _ a ha
    obtain ⟨dest', token', -⟩ := same _ b hb
    exact ne (by rwa [dest, dest', token, token'] at eq))
  range _ ok x hx := by
    obtain ⟨r, hr, out⟩ := List.mem_filterMap.1 hx
    exact ⟨(same r x out).2.2 ▸ (ok r hr).1, offers r x (ok r hr).2 out⟩
  length := (List.length_filterMap_le f xs).trans

theorem afterHandoff_step (out xs : List RelayRecord) : RecordsStep True xs (afterHandoff out xs) := by
  refine filterMap_records_step _ xs (fun r r' h => ?_) fun r r' le h => ?_
  · split at h
    · split at h
      · obtain rfl := Option.some.inj h; exact ⟨rfl, rfl, rfl⟩
      · cases h
    · obtain rfl := Option.some.inj h; exact ⟨rfl, rfl, rfl⟩
  · split at h
    · split at h
      case isTrue few => obtain rfl := Option.some.inj h; exact Nat.le_of_lt_succ few
      case isFalse => cases h
    · obtain rfl := Option.some.inj h; exact le

theorem renewEnvelope_step (destination serial : Nat) (env : BitVec 32) (xs : List RelayRecord) :
    RecordsStep True xs (renewEnvelope destination serial env xs) :=
  .map _ (fun r => by split <;> rfl) (fun r => by split <;> rfl) fun r ok => by split <;> exact ok

/-- A hand-out of receipts keeps their order, raises the hand counts of the first, and leaves the rest. -/
theorem afterReceipts_step (k : Nat) (x : RelayStore) :
    RelayStep x { x with receipts := afterReceipts k x.receipts } where
  relay := by
    rintro ⟨distinct, distinctReceipts, hops, hands, items⟩
    have raised : ∀ r ∈ x.receipts.take k, ∀ r',
        (if r.hands + 1 < 3 then some { r with hands := r.hands + 1 } else none) = some r' →
          r'.kit = r.kit ∧ r'.serial = r.serial ∧ r'.hands ≤ 2 := by
      intro r _ r' h
      split at h
      case isTrue few => obtain rfl := Option.some.inj h; exact ⟨rfl, rfl, Nat.le_of_lt_succ few⟩
      case isFalse => cases h
    rw [← List.take_append_drop k x.receipts, List.pairwise_append] at distinctReceipts
    obtain ⟨first, rest, apart⟩ := distinctReceipts
    refine ⟨distinct, List.pairwise_append.2 ⟨?_, rest, ?_⟩, hops, ?_, items⟩
    · refine List.pairwise_filterMap.2 (first.imp_of_mem fun ha hb ne a' ha' b' hb' eq => ?_)
      obtain ⟨kit, serial, -⟩ := raised _ ha a' ha'
      obtain ⟨kit', serial', -⟩ := raised _ hb b' hb'
      exact ne (by rwa [kit, kit', serial, serial'] at eq)
    · intro a' ha' b hb eq
      obtain ⟨a, ha, out⟩ := List.mem_filterMap.1 ha'
      obtain ⟨kit, serial, -⟩ := raised a ha a' out
      exact apart a ha b hb (by rwa [kit, serial] at eq)
    · intro y hy
      obtain hy | hy := List.mem_append.1 hy
      · obtain ⟨r, hr, out⟩ := List.mem_filterMap.1 hy
        exact (raised r hr y out).2.2
      · exact hands y (List.mem_of_mem_drop hy)
  records := id
  receipts le := by
    have kept := List.length_filterMap_le
      (fun r : Receipt => if r.hands + 1 < 3 then some { r with hands := r.hands + 1 } else none) (x.receipts.take k)
    simp only [afterReceipts, List.length_append, List.length_drop, List.length_take] at kept ⊢
    omega

/-! ## The Relay Store's service (R154 to R156) -/

theorem service_step (x : RelayStore) (c : Option CarryService)
    (h : RelayOk x → ∀ c' ∈ c, ∀ item ∈ c'.items, item.hopCount ≤ 7) : RelayStep x { x with service := c } where
  relay := fun ok =>
    have ⟨distinct, distinctReceipts, hops, hands, _⟩ := ok
    ⟨distinct, distinctReceipts, hops, hands, h ok⟩
  records := id
  receipts := id

theorem waiting_step (x : RelayStore) (w : List Request) : RelayStep x { x with waiting := w } := ⟨id, id, id⟩

theorem carryGoOn_keeps (c : CarryService) (s : State)
    (h : RelayOk s.relay → ∀ item ∈ c.items, item.hopCount ≤ 7) : Keeps s (carryGoOn c s) := by
  unfold carryGoOn
  split
  · refine (requestDigest_keeps _ _).after (.store _ (service_step _ _ fun ok c' hc => ?_))
    obtain rfl := Option.mem_some_iff.1 hc
    exact h ok
  · exact (answer_keeps _ _ _).after (.store _ (service_step _ _ fun _ c' hc => by cases hc))

theorem afterItem_keeps (c : CarryService) (renew : Option (Nat × Nat)) (s : State)
    (h : RelayOk s.relay → ∀ item ∈ c.items, item.hopCount ≤ 7) : Keeps s (afterItem c renew s) := by
  unfold afterItem
  split
  · exact carryGoOn_keeps c s h
  · split
    · exact carryGoOn_keeps c s h
    · refine (requestDigest_keeps _ _).after (.store _ (service_step _ _ fun ok c' hc => ?_))
      obtain rfl := Option.mem_some_iff.1 hc
      exact h ok

theorem evaluateReceipt_step (ownKit : Nat) (x : RelayStore) (r : Receipt) (h : r.hands ≤ 2) :
    RelayStep x (evaluateReceipt ownKit x r).2 := by
  unfold evaluateReceipt
  split
  · exact ⟨id, id, id⟩
  · split
    · have removed := (RecordsStep.of_sublist (removeRecord_sublist r.kit r.serial x.records)).store fun _ => trivial
      have added := addReceipt_step r { x with records := removeRecord r.kit r.serial x.records } h
      exact ⟨added.relay ∘ removed.relay, added.records ∘ removed.records, added.receipts ∘ removed.receipts⟩
    · exact addReceipt_step r x h

theorem evaluateItem_service (good : Bool) (item : RelayItem) (s : State) :
    (evaluateItem good item s).state.relay.service = s.relay.service := by
  unfold evaluateItem evaluateReceipt joinIntake
  dsimp only
  repeat' split
  all_goals rfl

theorem evaluateItem_keeps (good : Bool) (item : RelayItem) (s : State)
    (h : RelayOk s.relay → item.hopCount ≤ 7) :
    Keeps s (evaluateItem good item s).state := by
  unfold evaluateItem
  dsimp only
  split
  · exact .refl s
  · split
    · exact .store _ (evaluateReceipt_step _ _ _ (Nat.zero_le 2))
    · split
      · exact .refl s
      · split
        · split
          case isTrue room => exact joinIntake_keeps _ s room
          case isFalse => exact .refl s
        · exact .store _ ((evaluateRecord_step _ _ _ _ _ _ _ _).store h)

/-- The items in service have the hop counts that `RelayOk` gives them, the settled one among them. -/
theorem itemDigestDone_keeps (order : DigestOrder) (s : State) : Keeps s (itemDigestDone order s) := by
  unfold itemDigestDone
  split
  case h_1 r rest c _ inService =>
    split
    case isTrue =>
      split
      case h_1 => exact .refl s
      case h_2 item items held =>
        have hops : RelayOk s.relay → ∀ x ∈ c.items, x.hopCount ≤ 7 := fun ok => ok.2.2.2.2 c inService
        have evaluated := (Keeps.digests rest).trans
          (evaluateItem_keeps (decide (r.envelope = item.envelope)) item { s with digests := rest }
            fun ok => hops ok item (held ▸ List.mem_cons_self))
        have service := evaluateItem_service (decide (r.envelope = item.envelope)) item { s with digests := rest }
        have left : ∀ t : State, t.relay = (evaluateItem (decide (r.envelope = item.envelope)) item
            { s with digests := rest }).state.relay →
            RelayOk t.relay → ∀ x ∈ c.items.drop 1, x.hopCount ≤ 7 := fun t same ok x hx =>
          ok.2.2.2.2 c (by rw [same, service]; exact inService) x (List.mem_of_mem_drop hx)
        unfold settleItem
        dsimp only
        split
        · exact (evaluated.trans (serveTokens_keeps _ _)).trans
            (afterItem_keeps _ _ _ (left _ (serveTokens_relay _ _)))
        · exact evaluated.trans (afterItem_keeps _ _ _ (left _ rfl))
    case isFalse => exact .refl s
  case h_2 => exact .refl s

theorem renewalDigestDone_keeps (s : State) : Keeps s (renewalDigestDone s) := by
  unfold renewalDigestDone
  split
  case h_1 r rest c _ inService =>
    split
    · split
      · exact .refl s
      · refine (carryGoOn_keeps _ _ fun ok => ?_).after ((Keeps.digests rest).trans (.store _ ?_))
        · exact ok.2.2.2.2 c inService
        · exact (renewEnvelope_step _ _ _ _).store fun _ => trivial
    · exact .refl s
  case h_2 => exact .refl s

theorem receiptDigestDone_keeps (s : State) : Keeps s (receiptDigestDone s) := by
  unfold receiptDigestDone
  split
  case h_1 r rest _ =>
    split
    case h_1 =>
      refine (Keeps.digests rest).trans (.store _ ?_)
      exact addReceipt_step _ _ (Nat.zero_le 2)
    case h_2 => exact .refl s
  case h_2 => exact .refl s

theorem readTokenItem_hop (b : List Byte) (x : RelayItem) (h : readTokenItem b = some x) : x.hopCount ≤ 7 := by
  unfold readTokenItem at h
  dsimp only at h
  split at h
  case isTrue ok =>
    obtain rfl := Option.some.inj h
    simp only [Bool.and_eq_true, decide_eq_true_eq] at ok
    exact ok.2
  case isFalse => cases h

theorem readReceiptItem_hop (b : List Byte) (x : RelayItem) (h : readReceiptItem b = some x) : x.hopCount ≤ 7 := by
  unfold readReceiptItem at h
  dsimp only at h
  split at h
  case isTrue => obtain rfl := Option.some.inj h; exact Nat.zero_le 7
  case isFalse => cases h

theorem readItems_hop (n : Nat) (bytes : List Byte) (items : List RelayItem) (h : readItems n bytes = some items) :
    ∀ x ∈ items, x.hopCount ≤ 7 := by
  induction n generalizing bytes items with
  | zero =>
    unfold readItems at h
    split at h
    · obtain rfl := Option.some.inj h; simp
    · cases h
  | succ n ih =>
    unfold readItems at h
    split at h
    · cases h
    · split at h
      · split at h
        case h_1 item rest read readRest =>
          obtain rfl := Option.some.inj h
          exact List.forall_mem_cons.2 ⟨readTokenItem_hop _ item read, ih _ rest readRest⟩
        case h_2 => cases h
      · split at h
        · split at h
          case h_1 item rest read readRest =>
            obtain rfl := Option.some.inj h
            exact List.forall_mem_cons.2 ⟨readReceiptItem_hop _ item read, ih _ rest readRest⟩
          case h_2 => cases h
        · cases h

theorem readBundle_hop (body : List Byte) (items : List RelayItem) (h : readBundle body = some items) :
    ∀ x ∈ items, x.hopCount ≤ 7 := by
  unfold readBundle at h
  split at h
  · cases h
  · split at h
    · exact readItems_hop _ _ items h
    · cases h

theorem takeStoreRequest_keeps (req : Request) (s : State) : Keeps s (takeStoreRequest req s) := by
  unfold takeStoreRequest
  split
  · unfold takeCarry
    split
    case h_1 => exact answerResult_keeps _ _ s
    case h_2 items read => exact carryGoOn_keeps _ s fun _ => readBundle_hop _ items read
  · unfold takeHandoff
    split
    · exact answerResult_keeps _ _ s
    · exact (answer_keeps _ _ _).after (.store _ ((afterHandoff_step _ _).store fun _ => trivial))
  · unfold takeReceipts
    split
    · exact (answer_keeps _ _ _).after (.store _ (afterReceipts_step _ _))
    · exact answerResult_keeps _ _ s

theorem serveStore_keeps (n : Nat) (s : State) : Keeps s (serveStore n s) := by
  induction n generalizing s with
  | zero => exact .refl s
  | succ n ih =>
    unfold serveStore
    split
    · split
      · exact .refl s
      · exact (ih _).after ((takeStoreRequest_keeps _ _).after (.store _ (waiting_step _ _)))
    · exact .refl s

end Sys2Proof.Machine
end

section
/-! The invariants through the journal, provisioning, the Supply Monitor and the requests, up to every step (O3 to O5). -/

namespace Sys2Proof.Machine

/-! ## The core's power (R118, R125, R128) -/

theorem coreReset_ok (p : Provisioning) (otp : OtpOk p.otp) : OtpOk p.coreReset.otp ∧ PhaseOk p.coreReset.phase := by
  unfold Provisioning.coreReset
  split
  · exact ⟨trivial, trivial⟩
  · exact ⟨otp, trivial⟩

/-- A core at its start values keeps every invariant, off or STARTING. -/
theorem resetCore_keeps (p : Power) (s : State) (h : p = .off ∨ p = .starting) : Keeps s (resetCore p s) where
  pending := rfl
  accounts a :=
    have ⟨otp, phase⟩ := coreReset_ok _ a.otp
    ⟨otp, phase, unprovisioned_ok, List.forall_mem_nil _, trivial, trivial, a.flash, trivial⟩
  ports _ _ := ⟨start_ok, start_ok, start_ok, start_ok⟩
  flash := id
  capacity _ := ⟨Nat.zero_le 4, Nat.zero_le 48, Nat.zero_le 32, Nat.zero_le 4⟩
  ids _ := ⟨List.forall_mem_nil _, List.forall_mem_nil _, List.forall_mem_nil _⟩
  power _ := by obtain rfl | rfl := h <;> simp [PowerOk, resetCore, Power.awake, Meter.start, Supply.start, Link.start]
  relay _ := ⟨.nil, .nil, List.forall_mem_nil _, List.forall_mem_nil _, fun c hc => by cases hc⟩

theorem coreOff_keeps (s : State) : Keeps s (coreOff s) := resetCore_keeps .off s (.inl rfl)

theorem offIf_keeps (b : Bool) (s : State) : Keeps s (offIf b s) := by
  unfold offIf
  split
  · exact coreOff_keeps s
  · exact .refl s

theorem corePowerUp_keeps (s : State) : Keeps s (corePowerUp s) := by
  refine (resetCore_keeps .starting s (.inr rfl)).trans (.provisioning _ ?_ ?_)
  · exact AccountsOk.otp
  · exact AccountsOk.phase

theorem flashWrite_slots (f : Flash) (k : Nat) (c : Slot) (hc : SlotOk c) (h : ∀ x ∈ f, SlotOk x.2) :
    ∀ x ∈ flashWrite f k c, SlotOk x.2 := by
  intro x hx
  obtain old | ⟨rfl, -⟩ := flashWrite_keys f k c x hx
  · exact h x old
  · exact hc

theorem leaveSlots_slots (f : Flash) (sector : Nat) (left : List SlotLeft) (n : Nat) (h : ∀ x ∈ f, SlotOk x.2) :
    ∀ x ∈ leaveSlots f sector left n, SlotOk x.2 := by
  intro x hx
  obtain old | damaged := leaveSlots_keys f sector left n x hx
  · exact h x old
  · rw [damaged]; exact trivial

theorem flashEraseCut_slots (f : Flash) (sector : Nat) (left : List SlotLeft) (h : ∀ x ∈ f, SlotOk x.2) :
    ∀ x ∈ flashEraseCut f sector left, SlotOk x.2 := by
  unfold flashEraseCut
  dsimp only
  split
  · exact flashWrite_slots _ _ _ trivial (leaveSlots_slots f sector left 60 h)
  · exact leaveSlots_slots f sector left 60 h

theorem damageSlot_keeps (k : Nat) (s : State) : Keeps s { s with flash := flashWrite s.flash k .damaged } :=
  .flash_of _ (flashWrite_wf _ _ _) fun a => flashWrite_slots _ _ _ trivial a.flash

theorem cutOperation_keeps (cut : FlashCut) (s : State) : Keeps s (cutOperation cut s) := by
  unfold cutOperation
  split
  case h_1 => exact .refl s
  case h_2 sector _ => exact .flash_of _ (flashEraseCut_wf _ _ _) fun a => flashEraseCut_slots _ _ _ a.flash
  all_goals
    split
    · exact damageSlot_keeps _ s
    · exact .refl s

theorem coreRestart_keeps (s : State) : Keeps s (coreRestart s) :=
  (cutOperation_keeps _ s).trans (corePowerUp_keeps _)

/-! ## Beginning work (R133 to R139) -/

theorem queuedEntry_ok (s : State) (q : Queued) (acct : AccountOk s.account.acct) (hq : QueuedOk q) :
    AccountOk (queuedEntry s q).snapshot := by
  cases q with
  | tally r => exact acct
  | suspend => exact acct
  | token t => exact hq

theorem headEntry_ok (s : State) (h : AccountsOk s) : AccountOk (headEntry s).snapshot := by
  have work := h.work
  unfold headEntry
  dsimp only
  split
  case h_1 => exact h.acct
  case h_2 replay => rw [replay] at work; exact work
  all_goals exact provisionedAccount_ok _ h.settings

theorem journalGoOn_keeps (s : State) : Keeps s (journalGoOn s) := by
  unfold journalGoOn
  split
  · exact .refl s
  · split
    case h_1 => exact .refl s
    case h_2 q rest held =>
      split
      · exact .journal _ (fun a => a.queue) (fun _ => trivial) fun a => a.work
      · exact .journal _ (fun a => a.queue)
          (fun a => queuedEntry_ok s q a.acct (a.queue q (held ▸ List.mem_cons_self))) fun a => a.work

theorem beginErase_keeps (sector : Nat) (s : State) : Keeps s (beginErase sector s) :=
  .journal _ (fun a => a.queue) (fun _ => trivial) fun a => a.work

theorem beginHead_keeps (sector : Nat) (s : State) : Keeps s (beginHead sector s) := by
  have placed : Keeps s { s with journal.sector := sector, journal.nextSlot := 0 } :=
    .journal _ (fun a => a.queue) (fun a => a.op) fun a => a.work
  exact .after (.journal _ (fun a => a.queue) (fun a => headEntry_ok _ a) fun a => a.work) placed

/-! ## History and METER held (R148, R98) -/

theorem foldl_keeps {α : Type} (f : State → α → State) (h : ∀ s a, Keeps s (f s a)) (as : List α) (s : State) :
    Keeps s (as.foldl f s) := by
  induction as generalizing s with
  | nil => exact .refl s
  | cons a rest ih => exact (h s a).trans (ih _)

theorem serveHeldHistory_keeps (s : State) : Keeps s (serveHeldHistory s) := by
  unfold serveHeldHistory
  split
  · exact (foldl_keeps _ (fun s req => answer_keeps req _ s) _ _).after
      (.journal _ (fun a => a.queue) (fun a => a.op) fun a => a.work)
  · exact .refl s

theorem serveHeldMeter_keeps (s : State) : Keeps s (serveHeldMeter s) :=
  (foldl_keeps _ (fun s req => answer_keeps req _ s) _ _).after (.meter _ rfl)

/-! ## Completions (R138 to R142) -/

theorem completeFlush_keeps (s : State) : Keeps s (completeFlush s) := by
  unfold completeFlush
  split
  · exact coreRestart_keeps s
  · split
    · exact coreRestart_keeps s
    · exact (completeReply_keeps _ _).after (.journal _ (fun a => a.queue) (fun a => a.op) fun a => a.work)

/-- The oldest entry leaves the queue as its values are taken: that it stood there gives the account its rules. -/
theorem commitValues_keeps (t : TokenEntry) (rest : List Queued) (s : State) (h : s.journal.queue = .token t :: rest) :
    Keeps s (commitValues t { s with journal.queue := rest }) := by
  have popped : Keeps s { s with journal.queue := rest } :=
    .journal _ (fun a q hq => a.queue q (h ▸ List.mem_cons_of_mem _ hq)) (fun a => a.op) fun a => a.work
  have loaded : Keeps s { s with account.acct := t.snapshot } :=
    .account _ (fun a => a.queue (.token t) (h ▸ List.mem_cons_self)) id
  have paid : Keeps s { s with journal.queue := rest, account.acct := t.snapshot } := by
    refine loaded.trans (.journal _ (fun a q hq => ?_) (fun a => a.op) fun a => a.work)
    exact a.queue q (h ▸ List.mem_cons_of_mem _ hq)
  unfold commitValues
  dsimp only
  have marked := (paid.trans (.tokens { s.tokens with window := s.tokens.window.mark t.body.serial } id)).trans
    (.domain { s.domain with
      clock := s.domain.clock.makeAnchor (decide (tokenKindOf t.body.kind = some TokenKind.setTime)) t.body.outcome
      penalty := .zero })
  refine marked.trans (.store _ ?_)
  split
  · exact sweep_step _ _
  · exact ⟨id, id, id⟩

theorem popQueue_keeps (q : Queued) (rest : List Queued) (s : State) (h : s.journal.queue = q :: rest) :
    Keeps s { s with journal.queue := rest } :=
  .journal _ (fun a x hx => a.queue x (h ▸ List.mem_cons_of_mem q hx)) (fun a => a.op) fun a => a.work

theorem completeOldest_keeps (s : State) : Keeps s (completeOldest s) := by
  unfold completeOldest
  split
  case h_1 => exact .refl s
  case h_2 q rest held =>
    unfold tellComplete
    split
    case h_1 t =>
      exact (releasePin_keeps _).after ((commitNotices_keeps _ _ _).after
        ((deliverAccepted_keeps _ _).after ((giveCaps_keeps _).after (commitValues_keeps t rest s held))))
    case h_2 => exact (popQueue_keeps _ rest s held).trans (coreOff_keeps _)
    case h_3 =>
      split
      · exact (popQueue_keeps _ rest s held).trans (completeFlush_keeps _)
      · exact popQueue_keeps _ rest s held

theorem tellDropped_keeps (s : State) (q : Queued) : Keeps s (tellDropped s q) := by
  unfold tellDropped
  split
  · exact dropToken_keeps s
  · split
    · have forgotten : Keeps s { s with supply.restartPending := false, supply.restartRequest := none } :=
        .supply _ rfl fun a => a.replay
      dsimp only
      split
      · exact forgotten
      · exact forgotten.trans (answerResult_keeps _ _ _)
    · exact .refl s
  · exact .refl s

/-! ## Provisioning (R177) -/

theorem answerProvision_keeps (body : List Byte) (s : State) : Keeps s (answerProvision body s) := by
  unfold answerProvision
  split
  · exact .refl s
  · exact (answer_keeps _ _ _).after (.provisioning _ (fun a => a.otp) fun a => a.phase)

theorem provisionValues_keeps (s : State) : Keeps s (provisionValues s) := by
  have loaded : Keeps s { s with account := ⟨provisionedAccount s.provisioning.settings, false, none, true⟩ } :=
    .account _ (fun a => provisionedAccount_ok _ a.settings) fun _ => rfl
  have unphased := loaded.trans (.provisioning { s.provisioning with phase := .idle } (fun a => a.otp) fun _ => trivial)
  have clocked := unphased.trans (.domain { s.domain with
    clock := s.domain.clock.provision s.provisioning.settings.initialTime, penalty := .zero })
  have windowed := clocked.trans (.tokens { s.tokens with window := .empty } id)
  have ordinary := windowed.trans (.journal { s.journal with work := .ordinary } (fun a => a.queue) (fun a => a.op)
    fun _ => trivial)
  exact ordinary.trans (.meter _ rfl)

theorem completeProvisioning_keeps (s : State) : Keeps s (completeProvisioning s) :=
  (answerProvision_keeps _ _).after ((raiseIf_keeps _ _ _).after ((raise_keeps _ _).after
    ((giveCaps_keeps _).after (provisionValues_keeps s))))

theorem endWork_keeps (s : State) : Keeps s (endWork s) := by
  unfold endWork
  split
  case h_1 => exact .refl s
  case h_2 found working =>
    have told : Keeps s { s with supply.replay := .done (some found) } :=
      .supply _ rfl fun a => by have work := a.work; rw [working] at work; exact work
    exact told.trans (.journal _ (fun a => a.queue) (fun a => a.op) fun _ => trivial)
  all_goals exact completeProvisioning_keeps s

theorem journalFail_keeps (s : State) : Keeps s (journalFail s) :=
  (offIf_keeps _ _).after ((endWork_keeps _).after ((raise_keeps _ _).after
    ((foldl_keeps _ tellDropped_keeps _ _).after
      (.journal _ (fun _ => List.forall_mem_nil _) (fun _ => trivial) fun a => a.work))))

theorem moveOn_keeps (sector : Nat) (s : State) : Keeps s (moveOn sector s) := by
  unfold moveOn
  split
  · exact journalFail_keeps s
  · exact beginErase_keeps _ s

theorem headComplete_keeps (s : State) : Keeps s (headComplete s) := by
  unfold headComplete
  split
  case h_1 => exact .refl s
  case h_2 found working =>
    have told : Keeps s { s with supply.replay := .done (some found) } :=
      .supply _ rfl fun a => by have work := a.work; rw [working] at work; exact work
    exact told.trans (.journal _ (fun a => a.queue) (fun a => a.op) fun _ => trivial)
  all_goals exact (offIf_keeps _ _).after (completeProvisioning_keeps s)

/-- A passed write puts the entry's own bytes in the slot, of an entry whose account keeps its rules. -/
theorem writePassed_keeps (e : Entry) (s : State) (h : s.journal.op = .write e ∨ s.journal.op = .head e) :
    Keeps s (writePassed e s) := by
  have entry : AccountsOk s → AccountOk e.snapshot := fun a => by
    have op := a.op
    obtain op' | op' := h <;> rw [op'] at op <;> exact op
  have written : Keeps s { s with flash := flashWrite s.flash s.journal.slot (.entry e (slotImage e)) } :=
    .flash_of _ (flashWrite_wf _ _ _) fun a => flashWrite_slots _ _ _ ⟨entry a, rfl⟩ a.flash
  exact written.trans (.journal _ (fun a => a.queue) (fun _ => trivial) fun a => a.work)

theorem writeFailed_keeps (s : State) : Keeps s (writeFailed s) :=
  (damageSlot_keeps s.journal.slot s).trans (.journal _ (fun a => a.queue) (fun _ => trivial) fun a => a.work)

theorem writeEnd_keeps (verify : Bool) (s : State) : Keeps s (writeEnd verify s) := by
  unfold writeEnd
  split
  case h_1 e writing =>
    split
    · exact (serveHeldHistory_keeps _).after ((completeOldest_keeps _).after (writePassed_keeps e s (.inl writing)))
    · exact (moveOn_keeps _ _).after ((serveHeldHistory_keeps _).after (writeFailed_keeps s))
  case h_2 e heading =>
    have passed := writePassed_keeps e s (.inr heading)
    split
    · split
      · exact (coreOff_keeps _).after passed
      · exact (serveHeldHistory_keeps _).after ((headComplete_keeps _).after passed)
    · split
      · exact (coreOff_keeps _).after (writeFailed_keeps s)
      · exact (moveOn_keeps _ _).after ((serveHeldHistory_keeps _).after (writeFailed_keeps s))
  all_goals exact .refl s

theorem continueRing_keeps (sector : Nat) (s : State) : Keeps s (continueRing sector s) := by
  unfold continueRing
  split
  · exact beginErase_keeps _ s
  · exact (beginHead_keeps _ _).after (.journal _ (fun a => a.queue) (fun a => a.op) fun _ => trivial)

theorem erased_keeps (f : Flash) (bad : BitVec 8) (s : State) (wf : FlashWf s.flash → FlashWf f)
    (slots : AccountsOk s → ∀ x ∈ f, SlotOk x.2) :
    Keeps s { s with flash := f, journal.bad := bad, journal.op := .none } :=
  (Keeps.flash_of f wf slots).trans (.journal _ (fun a => a.queue) (fun _ => trivial) fun a => a.work)

theorem eraseEnd_keeps (verify : Bool) (left : List SlotLeft) (s : State) : Keeps s (eraseEnd verify left s) := by
  unfold eraseEnd
  split
  case h_1 sector _ =>
    split
    · have served := (erased_keeps (flashErase s.flash sector) s.journal.bad s (flashErase_wf _ _)
        fun a x hx => a.flash x (List.mem_of_mem_filter hx)).trans (serveHeldHistory_keeps _)
      unfold erasePassed
      dsimp only
      split
      · exact (coreOff_keeps _).after served
      · split
        · exact (continueRing_keeps _ _).after served
        · exact (beginHead_keeps _ _).after served
    · have served := (erased_keeps (flashEraseFailed s.flash sector left) (addBad s.journal.bad sector) s
        (flashEraseFailed_wf _ _ _) fun a => leaveSlots_slots _ _ _ _ a.flash).trans (serveHeldHistory_keeps _)
      unfold eraseFailed
      dsimp only
      split
      · exact (coreOff_keeps _).after served
      · split
        · exact (continueRing_keeps _ _).after served
        · exact (moveOn_keeps _ _).after served
  all_goals exact .refl s

theorem beginRing_keeps (s : State) : Keeps s (beginRing s) :=
  (beginErase_keeps _ _).after (.journal _ (fun _ => List.forall_mem_nil _) (fun _ => trivial) fun _ => trivial)

theorem programmingDone_keeps (verify : Bool) (s : State) : Keeps s (programmingDone verify s) := by
  unfold programmingDone
  split
  case h_1 f programming =>
    split
    · refine (beginRing_keeps _).after (.provisioning _ (fun a => ?_) fun _ => trivial)
      have phase := a.phase
      rw [programming] at phase
      exact phase
    · exact (offIf_keeps _ _).after ((answerProvision_keeps _ _).after
        (.provisioning _ (fun _ => trivial) fun _ => trivial))
  case h_2 => exact .refl s

/-! ## Replay (R144 to R146) -/

/-- Every entry that a slot gives as valid has its account in order. -/
theorem valid_ok (c : Slot) (e : Entry) (h : c.valid = some e) (ok : SlotOk c) : AccountOk e.snapshot := by
  cases c with
  | blank => cases h
  | damaged => cases h
  | entry e' image =>
    simp only [Slot.valid] at h
    split at h
    · obtain rfl := Option.some.inj h; exact ok.1
    · cases h

theorem flashRead_slotOk (f : Flash) (k : Nat) (h : ∀ x ∈ f, SlotOk x.2) : SlotOk (flashRead f k) := by
  induction f with
  | nil => exact trivial
  | cons x rest ih =>
    obtain ⟨k', c⟩ := x
    unfold flashRead
    split
    · exact h _ List.mem_cons_self
    · exact ih fun y hy => h y (List.mem_cons_of_mem _ hy)

theorem walkSlots_ok (f : Flash) (h : ∀ x ∈ f, SlotOk x.2) (sector n slot : Nat) (newest : Entry) (w : Window)
    (ok : AccountOk newest.snapshot) : AccountOk (walkSlots f sector n slot newest w).newest.snapshot := by
  induction n generalizing slot newest w with
  | zero => exact ok
  | succ n ih =>
    unfold walkSlots
    dsimp only
    split
    case h_1 e valid =>
      split
      · exact ih _ e _ (valid_ok _ e valid (flashRead_slotOk f _ h))
      · exact ok
    case h_2 => exact ok

theorem sectorHead_ok (f : Flash) (h : ∀ x ∈ f, SlotOk x.2) (sector : Nat) (x : SectorHead)
    (hx : sectorHead f sector = some x) : AccountOk x.entry.snapshot := by
  unfold sectorHead at hx
  split at hx
  case h_1 => cases hx
  case h_2 e valid =>
    split at hx
    · obtain rfl := Option.some.inj hx; exact valid_ok _ e valid (flashRead_slotOk f _ h)
    · cases hx

theorem foldl_higherHead_mem (heads : List SectorHead) (x : SectorHead) : heads.foldl higherHead x ∈ x :: heads := by
  induction heads generalizing x with
  | nil => exact List.mem_singleton.2 rfl
  | cons y rest ih =>
    have found := ih (higherHead x y)
    have either : higherHead x y = x ∨ higherHead x y = y := by unfold higherHead; split <;> simp
    rw [List.foldl_cons]
    obtain first | later := List.mem_cons.1 found
    · rw [first]
      obtain eq | eq := either <;> rw [eq] <;> simp
    · exact List.mem_cons_of_mem _ (List.mem_cons_of_mem _ later)

theorem servingHead_ok (f : Flash) (h : ∀ x ∈ f, SlotOk x.2) (x : SectorHead) (hx : servingHead f = some x) :
    AccountOk x.entry.snapshot := by
  unfold servingHead at hx
  split at hx
  case h_1 => cases hx
  case h_2 y rest heads =>
    obtain rfl := Option.some.inj hx
    have found := foldl_higherHead_mem rest y
    rw [← heads] at found
    obtain ⟨sector, -, head⟩ := List.mem_filterMap.1 found
    exact sectorHead_ok f h sector _ head

/-- The journal and the mark of the replay change together. -/
theorem replay_keeps (j : Journal) (r : Replay) (s : State) (queue : AccountsOk s → ∀ q ∈ j.queue, QueuedOk q)
    (op : AccountsOk s → OpOk j.op) (work : AccountsOk s → WorkOk j.work) (replay : AccountsOk s → ReplayOk r) :
    Keeps s { s with journal := j, supply.replay := r } := by
  have marked : Keeps s { s with supply.replay := r } := .supply _ rfl replay
  exact ⟨rfl, fun a => ⟨a.otp, a.phase, a.acct, queue a, op a, work a, a.flash, replay a⟩, id, id, id, id,
    marked.power, id⟩

theorem runReplay_keeps (s : State) : Keeps s (runReplay s) := by
  unfold runReplay
  split
  case h_1 => exact replay_keeps _ _ s AccountsOk.queue AccountsOk.op AccountsOk.work fun _ => trivial
  case h_2 h serving =>
    have found : AccountsOk s → AccountOk (walkSlots s.flash h.sector 59 1 h.entry h.window).newest.snapshot :=
      fun a => walkSlots_ok _ a.flash _ _ _ _ _ (servingHead_ok _ a.flash h serving)
    have emptied : AccountsOk s → ∀ q ∈ ([] : List Queued), QueuedOk q := fun _ => List.forall_mem_nil _
    dsimp only
    split
    · exact replay_keeps _ _ s emptied AccountsOk.op AccountsOk.work found
    · split
      · exact (beginErase_keeps _ _).after (replay_keeps _ _ s emptied AccountsOk.op found fun _ => trivial)
      · exact replay_keeps _ _ s emptied AccountsOk.op AccountsOk.work found

/-! ## The meter and the clock (R91, R73) -/

theorem takeSample_keeps (battery : Nat) (currents : PerPort Nat) (s : State) : Keeps s (takeSample battery currents s) := by
  unfold takeSample
  dsimp only
  split
  · exact (raiseIf_keeps _ _ _).after (.meter _ rfl)
  · exact .refl s

theorem reportDriven_keeps (s : State) : Keeps s (reportDriven s) := onPorts_keeps _ s newSecond_ok

theorem minuteArrives_keeps (s : State) : Keeps s (minuteArrives s) := by
  have moved : Keeps s (if s.domain.clock.dayChangeRaised then
      { s with domain.clock := s.domain.clock.minuteArrival.dayChange,
               relay := s.relay.sweep s.domain.clock.minuteArrival.day }
      else { s with domain.clock := s.domain.clock.minuteArrival }) := by
    split
    · exact (Keeps.domain { s.domain with clock := s.domain.clock.minuteArrival.dayChange }).trans
        (.store _ (sweep_step _ _))
    · exact .domain _
  unfold minuteArrives
  dsimp only
  split
  · exact moved
  · exact (takeTallyPoint_keeps _ _).after moved

theorem minuteIf_keeps (due : Bool) (s : State) : Keeps s (minuteIf due s) := by
  unfold minuteIf
  split
  · exact minuteArrives_keeps s
  · exact .refl s

theorem measureBackup_keeps (measured : Nat) (s : State) : Keeps s (measureBackup measured s) :=
  (raiseIf_keeps _ _ _).after (.domain _)

theorem crystalQualify_keeps (s : State) : Keeps s (crystalQualify s) := by
  unfold crystalQualify
  split
  · exact (raise_keeps _ _).after (.domain _)
  · exact .refl s

theorem crystalFail_keeps (s : State) : Keeps s (crystalFail s) := by
  unfold crystalFail
  split
  · exact (raise_keeps _ _).after (.domain _)
  · exact .refl s

theorem qualificationReset_keeps (s : State) : Keeps s (qualificationReset s) := by
  unfold qualificationReset
  split
  · exact .domain _
  · exact .refl s

theorem penaltyWaitEnds_keeps (s : State) : Keeps s (penaltyWaitEnds s) := by
  unfold penaltyWaitEnds
  split
  · exact .domain _
  · exact .refl s

/-! ## The Supply Monitor (07) -/

theorem shed_keeps (v : Nat) (s : State) : Keeps s (shed v s) := by
  unfold shed
  dsimp only
  split
  · exact .refl s
  · exact (raise_keeps _ _).after ((giveShedLevel_keeps _).after (.supply _ rfl AccountsOk.replay))

theorem holdover_intake_length (u : TokenUnit) : u.holdover.intake.length ≤ u.intake.length := by
  unfold TokenUnit.holdover
  split
  · exact List.length_take_le' _ _
  · exact Nat.zero_le _

/-- What holdover stops leaves nothing that a power state asks for: no switching, no sampling, no reading of the line. -/
theorem enterHoldover_keeps (s : State) : Keeps s (enterHoldover s) where
  pending := rfl
  accounts a := ⟨a.otp, a.phase, a.acct, a.queue, a.op, a.work, a.flash, a.replay⟩
  ports _ switching := nomatch switching
  flash := id
  capacity := fun ⟨intake, records, receipts, replies⟩ =>
    ⟨(holdover_intake_length _).trans intake, records, receipts, replies⟩
  ids := id
  power _ := by simp [PowerOk, enterHoldover, Power.awake, Link.stop]
  relay := fun ⟨distinct, distinctReceipts, hops, hands, _⟩ =>
    ⟨distinct, distinctReceipts, hops, hands, fun _ h => nomatch h⟩

theorem beginHoldover_keeps (s : State) : Keeps s (beginHoldover s) := by
  unfold beginHoldover
  dsimp only
  split
  · split
    · exact (coreOff_keeps _).after (enterHoldover_keeps s)
    · exact (submitEntry_keeps .suspend _ fun _ => trivial).after (enterHoldover_keeps s)
  · split
    · exact enterHoldover_keeps s
    · exact (coreOff_keeps _).after (enterHoldover_keeps s)

theorem giveUpStart_keeps (s : State) : Keeps s (giveUpStart s) := by
  have dropped : Keeps s { s with tokens.intake := [], tokens.service := .idle } := .tokens _ fun _ => Nat.zero_le 4
  have given := dropped.trans (.supply { s.supply with givenUp := true } rfl AccountsOk.replay)
  unfold giveUpStart
  dsimp only
  split
  · exact (coreOff_keeps _).after given
  · exact given

theorem askReplay_keeps (s : State) : Keeps s (askReplay s) := by
  unfold askReplay
  split
  · split
    · exact runReplay_keeps s
    · exact .supply _ rfl fun _ => trivial
  · exact .refl s

theorem startingReading_keeps (v : Nat) (s : State) : Keeps s (startingReading v s) := by
  have counted (n : Nat) : Keeps s { s with supply.filter := n } := .supply _ rfl AccountsOk.replay
  unfold startingReading
  dsimp only
  split
  · exact .refl s
  · split
    · exact giveUpStart_keeps s
    · split
      · exact counted 0
      · split
        · exact (askReplay_keeps _).after (counted _)
        · exact counted _

theorem takeBatteryReading_keeps (average : Nat) (s : State) : Keeps s (takeBatteryReading average s) := by
  have read : Keeps s { s with supply.battery := batteryReading average } := .supply _ rfl AccountsOk.replay
  unfold takeBatteryReading
  dsimp only
  split
  · split
    · exact (beginHoldover_keeps _).after read
    · exact (shed_keeps _ _).after read
  · exact (startingReading_keeps _ _).after read
  · exact read
  · exact read

theorem coreSecond_keeps (x : Sample) (due : Bool) (s : State) : Keeps s (coreSecond x due s) := by
  have sampled (t : State) : Keeps t (reportDriven (takeSample x.battery x.currents t)) :=
    (takeSample_keeps _ _ t).trans (reportDriven_keeps _)
  unfold coreSecond
  dsimp only
  split
  · exact (takeBatteryReading_keeps _ _).after ((sampled _).after (minuteIf_keeps due s))
  · split
    · exact (minuteIf_keeps _ _).after ((takeBatteryReading_keeps _ _).after (sampled s))
    · exact (takeBatteryReading_keeps _ _).after ((minuteIf_keeps _ _).after (sampled s))
  · exact (minuteIf_keeps _ _).after ((takeBatteryReading_keeps _ _).after (sampled s))

theorem secondArrives_keeps (x : Sample) (s : State) : Keeps s (secondArrives x s) := by
  have passed : Keeps s (measureBackup x.backup (advanceSecond s)) := (measureBackup_keeps _ _).after (.domain _)
  unfold secondArrives
  dsimp only
  split
  · split
    · unfold sleepingSecond
      dsimp only
      split
      · exact Keeps.after (.domain .off) ((minuteIf_keeps _ _).after passed)
      · split
        · exact (corePowerUp_keeps _).after ((minuteIf_keeps _ _).after passed)
        · exact (minuteIf_keeps _ _).after passed
    · exact (coreSecond_keeps _ _ _).after passed
  · exact .refl s

/-! ## The start event (R130) -/

theorem startClock_keeps (found : Option Found) (s : State) : Keeps s (startClock found s) := by
  unfold startClock
  dsimp only
  split
  · exact .refl s
  · split
    · exact (raise_keeps _ _).after (.domain _)
    · exact .domain _

theorem startClock_supply (found : Option Found) (s : State) : (startClock found s).supply = s.supply := by
  unfold startClock
  dsimp only
  split
  · rfl
  · split
    · exact raise_supply _ _
    · rfl

theorem startAccount_ok (valid : Bool) (f : Settings) (found : Option Found) (h : ReplayOk (.done found)) :
    AccountOk (startAccount valid f found).1 := by
  cases valid with
  | false => exact unprovisioned_ok
  | true =>
    cases found with
    | none => exact unreplayedAccount_ok f
    | some x => exact h

theorem loadAccount_keeps (found : Option Found) (s : State) (h : s.supply.replay = .done found) :
    Keeps s (loadAccount found s) := by
  refine (serveHeldMeter_keeps _).after (Keeps.trans ?_ (.meter _ rfl))
  have account : Keeps s { s with account := ⟨(startAccount (decide (s.provisioning.condition = .valid))
      s.provisioning.settings found).1, false, none, true⟩ } :=
    .account _ (fun a => startAccount_ok _ _ found (h ▸ a.replay)) fun _ => rfl
  exact account.trans (.tokens _ fun le => le)

theorem foldl_answerMeter_account (reqs : List Request) (s : State) :
    (reqs.foldl answerMeter s).account = s.account := by
  induction reqs generalizing s with
  | nil => rfl
  | cons r rest ih => exact (ih _).trans (answer_account _ _ s)

theorem foldl_answerMeter_supply (reqs : List Request) (s : State) : (reqs.foldl answerMeter s).supply = s.supply := by
  induction reqs generalizing s with
  | nil => rfl
  | cons r rest ih => exact (ih _).trans (answer_supply _ _ s)

theorem loadAccount_loaded (found : Option Found) (s : State) : (loadAccount found s).account.loaded = true :=
  congrArg AccountBlock.loaded (foldl_answerMeter_account _ _)

theorem loadAccount_supply (found : Option Found) (s : State) : (loadAccount found s).supply = s.supply :=
  foldl_answerMeter_supply _ _

theorem warmCatchUp_keeps (s : State) : Keeps s (warmCatchUp s) :=
  (submitTally_keeps _ _).after (takeCharged_keeps _ s fun a => catchUp_ok _ _ _ _ _ a.settings a.acct)

theorem takeCharged_loaded (c : Charged) (s : State) : (takeCharged c s).account.loaded = s.account.loaded := by
  simp [takeCharged]

theorem warmCatchUp_loaded (s : State) : (warmCatchUp s).account.loaded = s.account.loaded := by
  simp [warmCatchUp, takeCharged_loaded]

theorem warmCatchUp_power (s : State) : (warmCatchUp s).supply.power = s.supply.power := by simp [warmCatchUp]

theorem startLevels_keeps (s : State) : Keeps s (startLevels s) :=
  (raiseIf_keeps _ _ _).after ((giveShedLevel_keeps _).after
    (Keeps.trans (giveCaps_keeps s) (.supply _ rfl AccountsOk.replay)))

theorem startLevels_account (s : State) : (startLevels s).account = s.account := by simp [startLevels]

theorem startLevels_power (s : State) : (startLevels s).supply.power = s.supply.power := by simp [startLevels]

/-- A core that switches enters RUN with its account loaded, which is what `PowerOk` asks of RUN. -/
theorem runBegins_keeps (s : State) (loaded : s.account.loaded = true) (awake : s.supply.power.awake = true) :
    Keeps s { s with supply.power := .run, meter.sampling := true } where
  pending := rfl
  accounts a := ⟨a.otp, a.phase, a.acct, a.queue, a.op, a.work, a.flash, a.replay⟩
  ports := id
  flash := id
  capacity := id
  ids := id
  power p := ⟨fun _ => p.1 awake, by simp, fun _ => rfl, fun _ => loaded⟩
  relay := id

theorem enterRun_keeps (s : State) (loaded : s.account.loaded = true) (starting : s.supply.power = .starting) :
    Keeps s (enterRun s) := by
  refine (serveHeldHistory_keeps _).after ((runBegins_keeps _ ?_ ?_).after
    ((raiseIf_keeps _ _ _).after (raiseIf_keeps _ _ s)))
  · rwa [raiseIf_account, raiseIf_account]
  · rw [raiseIf_supply, raiseIf_supply, starting]; rfl

theorem start_keeps (found : Option Found) (s : State) (starting : s.supply.power = .starting)
    (h : s.supply.replay = .done found) : Keeps s (start found s) := by
  have loaded := (startClock_keeps found s).trans
    (loadAccount_keeps found (startClock found s) (by rw [startClock_supply, h]))
  have power : (loadAccount found (startClock found s)).supply.power = .starting := by
    rw [loadAccount_supply, startClock_supply, starting]
  have isLoaded := loadAccount_loaded found (startClock found s)
  unfold start
  dsimp only
  split
  · refine (enterRun_keeps _ ?_ ?_).after ((startLevels_keeps _).after ((warmCatchUp_keeps _).after loaded))
    · rw [startLevels_account, warmCatchUp_loaded, isLoaded]
    · rw [startLevels_power, warmCatchUp_power, power]
  · refine (enterRun_keeps _ ?_ ?_).after ((startLevels_keeps _).after loaded)
    · rw [startLevels_account, isLoaded]
    · rw [startLevels_power, power]

theorem startEvent_keeps (s : State) : Keeps s (startEvent s) := by
  unfold startEvent
  split
  case isTrue ready =>
    split
    case h_1 found done => exact start_keeps found s ready.1 done
    case h_2 => exact .refl s
  case isFalse => exact .refl s

/-! ## Requests (10) -/

theorem readPort_duty (body : List Byte) (i : Fin 4) (on : Bool) (duty : Nat) (h : readPort body = some (i, on, duty)) :
    duty ≤ 1000 := by
  unfold readPort at h
  split at h
  · split at h
    · cases h
    · split at h
      · cases h
      · simp only [Option.some.injEq, Prod.mk.injEq] at h
        exact h.2.2 ▸ min_le_right _ _
  · cases h

theorem within_iff (low high v : Nat) : within low high v = true ↔ low ≤ v ∧ v ≤ high := by simp [within]

theorem firstOutOfRange_eq_none_iff (body : List Byte) :
    firstOutOfRange body = none ↔
      (∀ x ∈ recordTests body, x.2 = true) ∧ ∀ o ∈ tariffOffsets, ∀ x ∈ tariffTests body o, x.2 = true := by
  simp [firstOutOfRange]

theorem judgeProvision_ok_iff (condition : RecordCondition) (power : Power) (body : List Byte) (f : Settings) :
    judgeProvision condition power body = .ok f ↔
      condition ≠ .valid ∧ condition ≠ .damaged ∧ power = .run ∧ body.length = 240 ∧ firstOutOfRange body = none
        ∧ thresholdsOrdered f = true ∧ tariffNumbersDistinct f = true ∧ f = readSettings body := by
  unfold judgeProvision
  dsimp only
  split
  case isTrue valid => simp [valid]
  case isFalse notValid =>
    split
    case isTrue damaged => simp [damaged]
    case isFalse notDamaged =>
      split
      case isTrue notRun => simp [notRun]
      case isFalse run =>
        split
        case isTrue length => simp [length]
        case isFalse length =>
          split
          case h_1 offset out => simp [out]
          case h_2 inRange =>
            split
            case isTrue unordered =>
              refine ⟨(nomatch ·), fun ⟨_, _, _, _, _, ordered, _, read⟩ => ?_⟩
              simp [← read, ordered] at unordered
            case isFalse ordered =>
              split
              case isTrue same =>
                refine ⟨(nomatch ·), fun ⟨_, _, _, _, _, _, distinct, read⟩ => ?_⟩
                simp [← read, distinct] at same
              case isFalse distinct =>
                simp only [Bool.not_eq_true', Bool.not_eq_false] at ordered distinct run length
                refine ⟨fun h => ?_, fun ⟨_, _, _, _, _, _, _, read⟩ => by rw [read]⟩
                obtain rfl := Except.ok.inj h
                exact ⟨notValid, notDamaged, not_not.1 run, not_not.1 length, inRange, ordered, distinct, rfl⟩

/-- The fields that pass the tests of a PROVISION bear on the account within its ranges. -/
theorem judgeProvision_ok (condition : RecordCondition) (power : Power) (body : List Byte) (f : Settings)
    (h : judgeProvision condition power body = .ok f) : SettingsOk f := by
  obtain ⟨-, -, -, -, inRange, -, -, rfl⟩ := (judgeProvision_ok_iff condition power body f).1 h
  obtain ⟨record, tariffs⟩ := (firstOutOfRange_eq_none_iff body).1 inRange
  refine ⟨?_, List.forall_mem_map.2 fun o ho => ⟨?_, ?_⟩⟩
  · have credit : within 0 100000 (fieldAt body 39 4) = true := 
      record (39, within 0 100000 (fieldAt body 39 4)) (by simp only [recordTests, List.mem_cons, true_or, or_true])
    exact ((within_iff _ _ _).1 credit).2
  · have limit : within 0 50000 (fieldAt body (o + 17) 2) = true := 
      tariffs o ho (o + 17, within 0 50000 (fieldAt body (o + 17) 2))
        (by simp only [tariffTests, List.mem_cons, true_or, or_true])
    exact ((within_iff _ _ _).1 limit).2
  · exact Nat.le_of_lt_succ (Nat.mod_lt _ (Nat.zero_lt_succ 7))

theorem withEmptyBody_keeps (req : Request) (f : State → State) (s : State) (h : Keeps s (f s)) :
    Keeps s (withEmptyBody req f s) := by
  unfold withEmptyBody
  split
  · exact h
  · exact answerResult_keeps _ _ s

theorem serve_keeps (k : RequestKind) (req : Request) (s : State) : Keeps s (serve k req s) := by
  cases k with
  | status => exact withEmptyBody_keeps _ _ _ (answer_keeps _ _ s)
  | notices =>
    have cleared : Keeps s { s with link.notices := 0 } := .link _ (.of_same rfl rfl rfl rfl rfl le_rfl)
    unfold serve serveNotices
    exact withEmptyBody_keeps _ _ _ (.after (answer_keeps _ _ _) cleared)
  | enterToken =>
    unfold serve serveEnterToken
    dsimp only
    split
    · exact answer_keeps _ _ s
    · split
      case isTrue room => exact joinIntake_keeps _ s room
      case isFalse => exact answer_keeps _ _ s
  | port =>
    unfold serve servePort
    dsimp only
    split
    case h_1 => exact answerResult_keeps _ _ s
    case h_2 i on duty read =>
      exact (answer_keeps _ _ _).after (onPort_keeps _ _ s fun p => setDemand_ok on duty p (readPort_duty _ i on duty read))
  | unlatch =>
    unfold serve serveUnlatch
    dsimp only
    split
    · exact answerResult_keeps _ _ s
    · exact (answer_keeps _ _ _).after (onPort_keeps _ _ s unlatch_ok)
  | meter =>
    unfold serve serveMeter
    refine withEmptyBody_keeps _ _ _ ?_
    split
    · exact answer_keeps _ _ s
    · exact .meter _ rfl
  | history =>
    unfold serve serveHistory
    dsimp only
    split
    · exact answerResult_keeps _ _ s
    · split
      · exact answer_keeps _ _ s
      · exact .journal _ (fun a => a.queue) (fun a => a.op) fun a => a.work
  | carry => exact .store _ (waiting_step _ _)
  | handoff => exact .store _ (waiting_step _ _)
  | receipts => exact .store _ (waiting_step _ _)
  | provision =>
    unfold serve serveProvision
    dsimp only
    split
    case h_1 => exact answer_keeps _ _ s
    case h_2 f judged => exact .provisioning _ (fun a => a.otp) fun _ => judgeProvision_ok _ _ _ f judged
  | identity => exact withEmptyBody_keeps _ _ _ (answer_keeps _ _ s)
  | clock => exact withEmptyBody_keeps _ _ _ (answer_keeps _ _ s)
  | restart =>
    have pended : Keeps s { s with supply.restartPending := true, supply.restartRequest := some req } :=
      .supply _ rfl AccountsOk.replay
    unfold serve serveRestart
    dsimp only
    split
    · exact answerResult_keeps _ _ s
    · split
      · exact answerResult_keeps _ _ s
      · split
        · split
          · exact answerResult_keeps _ _ s
          · exact (submitTally_keeps _ _).after pended
        · exact (completeReply_keeps _ _).after pended

theorem discardFrame_keeps (s : State) : Keeps s (discardFrame s) := .link _ (.of_same rfl rfl rfl rfl rfl le_rfl)

/-- A request is handed with the number of a frame that has been given one. -/
theorem route_keeps (req : Request) (s : State) (h : req.id < s.link.nextId) : Keeps s (route req s) := by
  unfold route
  split
  · exact answerResult_keeps _ _ s
  · refine (serve_keeps _ _ _).after (.link _ ?_)
    exact ⟨.inl, le_rfl, fun _ hx => .inl hx,
      fun i hi => (List.mem_append.1 hi).imp id fun hi => (List.mem_singleton.1 hi).trans_lt h, fun _ hi => .inl hi,
      .inl le_rfl⟩
  · exact .refl s

theorem judgeBytes_keeps (r : Reception) (s : State) : Keeps s (judgeBytes r s) := by
  unfold judgeBytes
  split
  · exact discardFrame_keeps s
  · refine (route_keeps _ _ (Nat.lt_succ_self _)).after (.link _ ?_)
    refine ⟨.inl, Nat.le_succ _, fun x hx => (List.mem_append.1 hx).imp id fun hx => ?_, fun _ hi => .inl hi,
      fun _ hi => .inl hi, .inl le_rfl⟩
    rw [List.mem_singleton.1 hx]
    exact Nat.lt_succ_self _

theorem frameEnds_keeps (s : State) : Keeps s (frameEnds s) := by
  have ended : Keeps s { s with link.reception := none } := .link _ (.of_same rfl rfl rfl rfl rfl le_rfl)
  unfold frameEnds
  split
  · exact .refl s
  · dsimp only
    split
    · exact (raise_keeps _ _).after (ended.trans (.link _ (.of_same rfl rfl rfl rfl rfl le_rfl)))
    · exact (discardFrame_keeps _).after ended
    · exact (discardFrame_keeps _).after ended
    · exact (judgeBytes_keeps _ _).after ended

theorem character_same (char : Byte) (stopBit : Bool) (l : Link) :
    l.character char stopBit = { l with
      reception := (l.character char stopBit).reception, writePos := (l.character char stopBit).writePos } := by
  unfold Link.character Link.storeCharacter
  dsimp only
  repeat' split
  all_goals rfl

theorem characterArrives_keeps (char : Byte) (stopBit : Bool) (s : State) :
    Keeps s (characterArrives char stopBit s) := by
  unfold characterArrives
  split
  · rw [character_same]
    exact .link _ (.of_same rfl rfl rfl rfl rfl le_rfl)
  · exact .refl s

theorem receiveFrame_keeps (tag kind : Byte) (body : List Byte) (s : State) : Keeps s (receiveFrame tag kind body s) :=
  (frameEnds_keeps _).after (foldl_keeps _ (fun s b => characterArrives_keeps b true s) _ s)

/-! ## The line (R169, R170) -/

theorem breakTaken_keeps (s : State) : Keeps s (breakTaken s) := by
  have broken : Keeps s { s with link := s.link.break } :=
    .link _ ⟨fun h => absurd h Bool.false_ne_true, le_rfl, List.forall_mem_nil _, List.forall_mem_nil _,
      fun _ hi => List.mem_append.1 hi, .inr (Nat.zero_le 4)⟩
  unfold breakTaken
  dsimp only
  split
  · split
    · exact (coreRestart_keeps _).after broken
    · exact broken
  · exact .refl s

theorem breakEnds_keeps (s : State) : Keeps s (breakEnds s) := by
  unfold breakEnds
  dsimp only
  split
  case isTrue h =>
    simp only [Bool.and_eq_true] at h
    have reading : Keeps s { s with link.receiving := true } :=
      .link _ ⟨fun _ => .inr h.1, le_rfl, fun _ hx => .inl hx, fun _ hi => .inl hi, fun _ hi => .inl hi, .inl le_rfl⟩
    split
    · exact reading
    · exact reading.trans (.link _ (queueNotice_step _ _))
  case isFalse => exact .refl s

/-- The frame that leaves makes room for the reply that moves in. -/
theorem frameLeaves_keeps (s : State) : Keeps s (frameLeaves s) := by
  unfold frameLeaves
  split
  case h_1 bytes x rest _ held =>
    have gone : ∀ l : Link, l.transmit = rest → l.receiving = s.link.receiving → l.held = s.link.held →
        l.handed = s.link.handed → l.cancelled = s.link.cancelled → l.nextId = s.link.nextId →
        Keeps s { s with link := l } := fun l transmit receiving kept handed cancelled nextId => by
      refine .link _ (.of_same receiving kept handed cancelled nextId ?_)
      simp only [Link.replyCount, transmit, held]
      exact ((List.sublist_cons_self x rest).filter _).length_le
    dsimp only
    split
    · exact gone _ rfl rfl rfl rfl rfl rfl
    case h_2 r =>
      split
      · exact (coreRestart_keeps _).after (gone _ rfl rfl rfl rfl rfl rfl)
      · unfold Link.promote
        split
        case h_1 => exact gone _ rfl rfl rfl rfl rfl rfl
        case h_2 =>
          refine .link _ ?_
          refine ⟨.inl, le_rfl, fun _ hx => .inl (List.mem_of_mem_filter hx), fun _ hi => .inl hi,
            fun _ hi => .inl hi, .inl ?_⟩
          simp [Link.replyCount, Link.release, held, List.filter_cons, TxFrame.isReply]
  case h_2 => exact .refl s

theorem beginSending_count (set : BitVec 16) (xs : List TxFrame) :
    ((beginSending set xs).1.filter TxFrame.isReply).length = (xs.filter TxFrame.isReply).length := by
  induction xs with
  | nil => rfl
  | cons x rest ih =>
    cases x with
    | reply r => rfl
    | notice set' =>
      cases set' with
      | some v => rfl
      | none =>
        unfold beginSending
        split
        · exact ih
        · rfl

theorem pump_keeps (s : State) : Keeps s { s with link := s.link.pump } := by
  refine .link _ (.of_same (pump_receiving _) (pump_held _) (pump_handed _) (pump_cancelled _) (pump_nextId _) ?_)
  unfold Link.pump
  split
  · exact (beginSending_count _ _).le
  · exact le_rfl

theorem finish_keeps (o : DigestOrder) (s : State) : Keeps s (finish o s) := by
  have units : Keeps s (settleUnits o s) := by
    cases o with
    | tokenFirst => exact (serveTokens_keeps _ s).trans (serveStore_keeps _ _)
    | storeFirst => exact (serveStore_keeps _ s).trans (serveTokens_keeps _ _)
  exact (pump_keeps _).after ((journalGoOn_keeps _).after units)

/-! ## Power (R126, R128, R72) -/

theorem loseSupply_keeps (cut : FlashCut) (s : State) : Keeps s (loseSupply cut s) := by
  unfold loseSupply
  split
  · exact .refl s
  · exact (coreOff_keeps _).after (cutOperation_keeps cut s)

theorem domainPowersUp_keeps (s : State) : Keeps s (domainPowersUp s) := by
  unfold domainPowersUp
  split
  · exact .refl s
  · exact .domain _

theorem corePowersUp_keeps (s : State) : Keeps s (corePowersUp s) := by
  unfold corePowersUp
  split
  · exact corePowerUp_keeps s
  · exact .refl s

theorem millisecond_keeps (s : State) : Keeps s (millisecond s) := by
  have ticked : Keeps s { onPorts Port.tick s with idleMilliseconds := s.idleMilliseconds + 1 } :=
    Keeps.after (.idleMilliseconds _) (onPorts_keeps _ s tick_ok)
  unfold millisecond
  dsimp only
  split
  · exact Keeps.after (.domain _) ticked
  · exact ticked

/-! ## Every command -/

/-- What a command comes to: the settling at the end of its event, after changes that keep every invariant. -/
theorem exec_eq_finish (c : Instr) (s t : State) (h : exec c s = .next t) : ∃ o x, t = finish o x ∧ Keeps s x := by
  have request (k : RequestKind) (tag : Byte) (body : List Byte) :
      ∃ o x, requestArrives k tag body s = finish o x ∧ Keeps s x := ⟨_, _, rfl, receiveFrame_keeps _ _ _ s⟩
  cases c <;> obtain rfl := Host.Outcome.next.inj h
  case status => exact request _ _ _
  case notices => exact request _ _ _
  case enterToken => exact request _ _ _
  case port => exact request _ _ _
  case unlatch => exact request _ _ _
  case meter => exact request _ _ _
  case history => exact request _ _ _
  case carry => exact request _ _ _
  case handoff => exact request _ _ _
  case receipts => exact request _ _ _
  case provision => exact request _ _ _
  case identity => exact request _ _ _
  case clock => exact request _ _ _
  case restart => exact request _ _ _
  case characterReceived => exact ⟨_, _, rfl, characterArrives_keeps _ _ s⟩
  case frameEnd => exact ⟨_, _, rfl, frameEnds_keeps s⟩
  case lineBreak => exact ⟨_, _, rfl, breakTaken_keeps s⟩
  case lineBreakEnd => exact ⟨_, _, rfl, breakEnds_keeps s⟩
  case frameSent => exact ⟨_, _, rfl, frameLeaves_keeps s⟩
  case secondEvent => exact ⟨_, _, rfl, secondArrives_keeps _ s⟩
  case crystalQualified => exact ⟨_, _, rfl, crystalQualify_keeps s⟩
  case crystalGap => exact ⟨_, _, rfl, crystalFail_keeps s⟩
  case crystalQualificationReset => exact ⟨_, _, rfl, qualificationReset_keeps s⟩
  case trip => exact ⟨_, _, rfl, tripPort_keeps _ _ s⟩
  case rampStep => exact ⟨_, _, rfl, onPort_keeps _ _ s rampStep_ok⟩
  case tripWaitEnd => exact ⟨_, _, rfl, onPort_keeps _ _ s tripWaitEnd_ok⟩
  case onRunComplete => exact ⟨_, _, rfl, onPort_keeps _ _ s onRunComplete_ok⟩
  case penaltyWaitEnd => exact ⟨_, _, rfl, penaltyWaitEnds_keeps s⟩
  case tokenCheckDigestDone => exact ⟨_, _, rfl, tokenDigestDone_keeps s⟩
  case receiptEnvelopeDone => exact ⟨_, _, rfl, receiptDigestDone_keeps s⟩
  case itemEnvelopeCheckDone => exact ⟨_, _, rfl, itemDigestDone_keeps _ s⟩
  case envelopeRenewalDone => exact ⟨_, _, rfl, renewalDigestDone_keeps s⟩
  case journalWriteEnd => exact ⟨_, _, rfl, writeEnd_keeps _ s⟩
  case sectorEraseEnd => exact ⟨_, _, rfl, eraseEnd_keeps _ _ s⟩
  case programmingEnd => exact ⟨_, _, rfl, programmingDone_keeps _ s⟩
  case startEvent => exact ⟨_, _, rfl, startEvent_keeps s⟩
  case supplyLoss => exact ⟨_, _, rfl, loseSupply_keeps _ s⟩
  case clockDomainPowerUp => exact ⟨_, _, rfl, domainPowersUp_keeps s⟩
  case clockDomainPowerLoss => exact ⟨_, _, rfl, Keeps.after (.domain _) (loseSupply_keeps _ s)⟩
  case corePowerUp => exact ⟨_, _, rfl, corePowersUp_keeps s⟩

theorem exec_keeps (c : Instr) (s t : State) (h : exec c s = .next t) : Keeps s t := by
  obtain ⟨o, x, rfl, kept⟩ := exec_eq_finish c s t h
  exact kept.trans (finish_keeps o x)

/-- Taking a command from the queue changes nothing that an invariant speaks of. -/
theorem accountsOk_pending (s : State) (rest : List Instr) (h : AccountsOk s) : AccountsOk { s with pending := rest } :=
  ⟨h.otp, h.phase, h.acct, h.queue, h.op, h.work, h.flash, h.replay⟩

/-- A step is a millisecond on an empty queue, and otherwise a command that finds the queue without it. -/
theorem step_cases (s t : State) (h : step s = .next t) :
    (s.pending = [] ∧ t = millisecond s) ∨ ∃ c rest, s.pending = c :: rest ∧ exec c { s with pending := rest } = .next t := by
  unfold step at h
  split at h
  case h_1 empty => exact .inl ⟨empty, (Host.Outcome.next.inj h).symm⟩
  case h_2 c rest held => exact .inr ⟨c, rest, held, h⟩

/-- Settles O3: a step is a command or a millisecond, and both keep the account's rules with the other invariants. -/
theorem theAccountKeepsItsRules : Obligations.TheAccountKeepsItsRules := by
  intro s t ok h
  obtain ⟨-, rfl⟩ | ⟨c, rest, -, run⟩ := step_cases s t h
  · exact (millisecond_keeps s).accounts ok
  · exact (exec_keeps c _ t run).accounts (accountsOk_pending s rest ok)

/-- Settles O4: as O3, of the promises of the port states. -/
theorem thePortsKeepTheirStates : Obligations.ThePortsKeepTheirStates := by
  intro s t ok h
  obtain ⟨-, rfl⟩ | ⟨c, rest, -, run⟩ := step_cases s t h
  · exact (millisecond_keeps s).ports ok
  · exact (exec_keeps c _ t run).ports ok

/-- Settles O5: as O3, of each of the other invariants. -/
theorem smallInvariantsAreKept : Obligations.SmallInvariantsAreKept := by
  intro s t h
  obtain ⟨-, rfl⟩ | ⟨c, rest, -, run⟩ := step_cases s t h
  · have kept := millisecond_keeps s
    exact ⟨kept.flash, kept.capacity, kept.ids, kept.power, kept.relay⟩
  · have kept := exec_keeps c _ t run
    exact ⟨kept.flash, kept.capacity, kept.ids, kept.power, kept.relay⟩

end Sys2Proof.Machine
end

section
/-! The end of an event: the units, the journal and the link have taken up what they could (O1, O2). -/

namespace Sys2Proof.Machine

/-! ## The units settle (R48, R154) -/

theorem settleToken_intake (r : TokenResult) (extra : List Byte) (s : State) :
    (settleToken r extra s).tokens.intake = s.tokens.intake.tail := by
  unfold settleToken
  split
  case h_1 empty => rw [empty]; rfl
  case h_2 e rest held =>
    rw [held]
    dsimp only
    split <;> simp

/-- As many entries as the intake holds are enough: an idle unit in RUN leaves none waiting. -/
theorem serveTokens_settles (n : Nat) (s : State) (h : s.tokens.intake.length ≤ n)
    (run : (serveTokens n s).supply.power = .run) (idle : (serveTokens n s).tokens.service = .idle) :
    (serveTokens n s).tokens.intake = [] := by
  induction n generalizing s with
  | zero => exact List.length_eq_zero_iff.1 (Nat.le_zero.1 h)
  | succ n ih =>
    unfold serveTokens at run idle ⊢
    split at idle
    case isTrue ready =>
      rw [if_pos ready] at run ⊢
      split at idle
      case h_1 empty => rw [empty]
      case h_2 e rest held =>
        simp only [held] at run ⊢
        split at idle
        case h_1 r extra refused =>
          simp only [refused] at run ⊢
          refine ih _ ?_ run idle
          rw [settleToken_intake, held]
          rw [held] at h
          exact Nat.le_of_succ_le_succ h
        case h_2 => simp at idle
    case isFalse notReady =>
      rw [if_neg notReady] at run
      exact absurd ⟨run, idle⟩ notReady

theorem settleTokens_settles (s : State) (run : (settleTokens s).supply.power = .run)
    (idle : (settleTokens s).tokens.service = .idle) : (settleTokens s).tokens.intake = [] :=
  serveTokens_settles _ s le_rfl run idle

theorem carryGoOn_waiting (c : CarryService) (s : State) : (carryGoOn c s).relay.waiting = s.relay.waiting := by
  unfold carryGoOn
  split <;> simp [requestItemCheck]

theorem takeStoreRequest_waiting (req : Request) (s : State) :
    (takeStoreRequest req s).relay.waiting = s.relay.waiting := by
  unfold takeStoreRequest
  split
  · unfold takeCarry
    split
    · simp
    · exact carryGoOn_waiting _ s
  · unfold takeHandoff
    split <;> simp
  · unfold takeReceipts
    dsimp only
    split <;> simp

theorem serveStore_settles (n : Nat) (s : State) (h : s.relay.waiting.length ≤ n)
    (free : (serveStore n s).relay.service = none) (set : (serveStore n s).domain.clock.timeSet = true) :
    (serveStore n s).relay.waiting = [] := by
  induction n generalizing s with
  | zero => exact List.length_eq_zero_iff.1 (Nat.le_zero.1 h)
  | succ n ih =>
    unfold serveStore at free set ⊢
    split at free
    case isTrue ready =>
      rw [if_pos ready] at set ⊢
      split at free
      case h_1 empty => rw [empty]
      case h_2 req rest held =>
        simp only [held] at set ⊢
        refine ih _ ?_ free set
        rw [takeStoreRequest_waiting]
        rw [held] at h
        exact Nat.le_of_succ_le_succ h
    case isFalse notReady =>
      rw [if_neg notReady] at set
      exact absurd ⟨free, set⟩ notReady

theorem settleStore_settles (s : State) (free : (settleStore s).relay.service = none)
    (set : (settleStore s).domain.clock.timeSet = true) : (settleStore s).relay.waiting = [] :=
  serveStore_settles _ s le_rfl free set

/-- Neither unit disturbs what the other has settled. -/
theorem settleUnits_settles (o : DigestOrder) (s : State) :
    ((settleUnits o s).supply.power = .run ∧ (settleUnits o s).tokens.service = .idle →
        (settleUnits o s).tokens.intake = [])
      ∧ ((settleUnits o s).relay.service = none ∧ (settleUnits o s).domain.clock.timeSet = true →
        (settleUnits o s).relay.waiting = []) := by
  cases o with
  | tokenFirst =>
    refine ⟨fun ⟨run, idle⟩ => ?_, fun ⟨free, set⟩ => settleStore_settles _ free set⟩
    simp only [settleUnits, settleStore, serveStore_supply, serveStore_tokens] at run idle ⊢
    exact settleTokens_settles s run idle
  | storeFirst =>
    refine ⟨fun ⟨run, idle⟩ => settleTokens_settles _ run idle, fun ⟨free, set⟩ => ?_⟩
    simp only [settleUnits, settleTokens, serveTokens_relay, serveTokens_domain] at free set ⊢
    exact settleStore_settles s free set

/-! ## The journal and the whole part (R135, R169) -/

theorem journalGoOn_settles (s : State) (working : (journalGoOn s).journal.failed = false)
    (notWaiting : (journalGoOn s).journal.flushWait = false) (free : (journalGoOn s).journal.op = .none) :
    (journalGoOn s).journal.queue = [] := by
  unfold journalGoOn at working notWaiting free ⊢
  split at free
  case isTrue stopped =>
    rw [if_pos stopped] at working notWaiting
    simp [working, notWaiting, free] at stopped
  case isFalse ready =>
    rw [if_neg ready]
    split at free
    case h_1 empty => rw [empty]
    case h_2 => split at free <;> cases free

theorem finish_settles (o : DigestOrder) (s : State) : Settled (finish o s) := by
  obtain ⟨tokens, store⟩ := settleUnits_settles o s
  refine ⟨⟨?_, ?_, ?_⟩, pump_settled _⟩
  · simpa only [finish, journalGoOn_supply, journalGoOn_tokens] using tokens
  · simpa only [finish, journalGoOn_relay, journalGoOn_domain] using store
  · exact fun ⟨working, notWaiting, free⟩ => journalGoOn_settles _ working notWaiting free

/-- Settles O2: every command ends in the settling of its event, and nothing on the way there touches the queue. -/
theorem afterEveryCommand : Obligations.AfterEveryCommand := by
  intro c s t h
  obtain ⟨o, x, rfl, kept⟩ := exec_eq_finish c s t h
  exact ⟨(finish_pending o x).trans kept.pending, finish_settles o x⟩

/-- Settles O1: the step reads the front of the queue, by its definition. -/
theorem stepTakesTheFront : Obligations.StepTakesTheFront := fun _ _ _ => rfl

end Sys2Proof.Machine
end

section
/-! The requests that are turned away or answered at their arrival (O10 to O16). -/

namespace Sys2Proof.Machine

/-! ## What stands in the way of a request (R165, R168, R174) -/

/-- A refused request is answered with the refusal, and nothing but the link changes. -/
theorem exec_refusal (k : RequestKind) (tag : Byte) (body : List Byte) (r : ReplyResult) (s : State)
    (ready : Ready body s) (refused : generalRefusal s.provisioning k.code = some r) :
    ∃ t, exec (requestOf k tag body) s = .next t ∧ Answered k tag body [r.code] false s.link t.link ∧ OnlyLink s t := by
  obtain ⟨t, finished, same, answered, notices⟩ := finish_reply k tag body [r.code] false s (withFrame k tag body s)
    ready rfl ready.2.2.1.1 (.inr rfl)
  exact ⟨t, by rw [exec_refused k tag body r s ready.1 refused, finished], answered, same, notices⟩

theorem requestKindOf_code (k : RequestKind) : requestKindOf k.code = some k := by cases k <;> rfl

theorem generalRefusal_code (p : Provisioning) (k : RequestKind) :
    generalRefusal p k.code =
      if p.inProgress && k.waitsForProvisioning then some .busy
      else if decide (p.condition = .blank ∨ p.condition = .damaged) && k.needsRecord then some .notProvisioned
      else none := by
  simp only [generalRefusal, requestKindOf_code]

theorem waitsForProvisioning_iff (k : RequestKind) : k.waitsForProvisioning = true ↔ k ≠ .status ∧ k ≠ .identity := by
  cases k <;> decide

theorem needsRecord_iff (k : RequestKind) :
    k.needsRecord = true ↔ k ∉ [RequestKind.status, .provision, .identity, .restart] := by
  cases k <;> decide

theorem admitted_unconditional (p : Provisioning) (k : RequestKind) (h : k = .status ∨ k = .identity) :
    generalRefusal p k.code = none := by
  rw [generalRefusal_code]
  obtain rfl | rfl := h <;> simp [RequestKind.waitsForProvisioning, RequestKind.needsRecord]

/-- A request that its owner answers with a result alone. -/
theorem exec_answeredResult (k : RequestKind) (tag : Byte) (body : List Byte) (r : ReplyResult) (s : State)
    (ready : Ready body s) (admitted : Admitted k s)
    (served : serve k (arrivedRequest k tag body s.link) (handedOver k tag body s)
      = answerResult (arrivedRequest k tag body s.link) r (handedOver k tag body s)) :
    ∃ t, exec (requestOf k tag body) s = .next t ∧ Answered k tag body [r.code] false s.link t.link ∧ OnlyLink s t :=
  exec_answered k tag body [r.code] false s ready admitted served

/-- The six requests whose body must be empty are answered BAD_REQUEST when it is not. -/
theorem serve_nonempty (k : RequestKind) (req : Request) (s : State)
    (h : k ∈ [RequestKind.status, .notices, .meter, .identity, .clock, .restart]) (body : req.body ≠ []) :
    serve k req s = answerResult req .badRequest s := by
  simp only [List.mem_cons, List.not_mem_nil, or_false] at h
  obtain rfl | rfl | rfl | rfl | rfl | rfl := h
  case inr.inr.inr.inr.inr => exact if_pos body
  all_goals exact if_neg body

/-- Settles O10: a line that is not read, the link's two refusals, and the owners' refusal of a body. -/
theorem requestsAreTurnedAway : Obligations.RequestsAreTurnedAway := by
  refine ⟨fun k tag body s receiving reception settled => ?_, fun k tag body s ready => ⟨?_, ?_⟩, ?_⟩
  · rw [exec_requestOf, receiveFrame_notRead _ _ _ _ receiving reception, finish_settled _ _ settled]
  · intro inProgress notStatus notIdentity
    refine exec_refusal k tag body .busy s ready ?_
    rw [generalRefusal_code, inProgress, (waitsForProvisioning_iff k).2 ⟨notStatus, notIdentity⟩]
    rfl
  · intro notInProgress condition needs
    refine exec_refusal k tag body .notProvisioned s ready ?_
    rw [generalRefusal_code, notInProgress, (needsRecord_iff k).2 needs, decide_eq_true condition]
    rfl
  · intro k tag body s empties nonempty ready admitted
    exact exec_answeredResult k tag body .badRequest s ready admitted (serve_nonempty k _ _ empties nonempty)

/-! ## Reports (R173, R172, R178, R87) -/

theorem provisioning_settings_of_not_valid (p : Provisioning) (h : p.condition ≠ .valid) :
    p.settings = .unprovisioned := by
  unfold Provisioning.settings
  split
  case h_1 valid _ => exact absurd valid h
  case h_2 => rfl

theorem clockCondition_code (c : ClockCondition) : c.code = if c = .running then 0 else 1 := by cases c <;> rfl

theorem timeSource_code (x : TimeSource) : x.code = if x = .crystal then 0 else 1 := by cases x <;> rfl

theorem senseState_code (x : SenseState) : x.code = if x = .fault then 1 else 0 := by cases x <;> rfl

theorem shownQualification_eq (c : DayClock) :
    c.shownQualification = if c.source = .rc then c.qualification else 0 := by
  unfold DayClock.shownQualification
  cases c.source <;> rfl

theorem clockBody_eq (rcTrim : Int) (c : DayClock) :
    clockBody rcTrim c =
      0 :: (natBytes 2 c.day ++ natBytes 2 c.minute ++ natBytes 1 c.second
        ++ [if c.timeSet then 1 else 0, if c.condition = .running then 0 else 1, if c.source = .crystal then 0 else 1]
        ++ natBytes 2 (if c.source = .rc then c.qualification else 0)
        ++ natBytes 2 c.hold ++ natBytes 2 c.anchorAge ++ [BitVec.ofInt 8 rcTrim]) := by
  rw [clockBody, clockCondition_code, timeSource_code, shownQualification_eq]
  rfl

/-- Settles O11: each report is its owner's answer at the arrival; NOTICES clears the set it returns. -/
theorem reportsAreMade : Obligations.ReportsAreMade := by
  refine ⟨fun tag s ready => ?_, fun tag s ready admitted => ?_, fun tag s ready => ?_, fun tag s ready admitted => ?_⟩
  · exact exec_answered .status tag [] _ false s ready (admitted_unconditional _ _ (.inl rfl)) rfl
  · obtain ⟨t, finished, same, answered, notices⟩ := finish_reply .notices tag [] (noticesBody s.link.notices) false s
      { handedOver .notices tag [] s with link.notices := 0 } ready rfl ready.2.2.1.1 (.inl rfl)
    refine ⟨t, ?_, answered, same, notices⟩
    rw [← finished]
    exact exec_admitted .notices tag [] s ready.1 admitted
  · obtain ⟨t, run, answered, only⟩ := exec_answered .identity tag [] _ false s ready
      (admitted_unconditional _ _ (.inr rfl)) rfl
    refine ⟨t, Config.partRevisionLessOne.val + 1, run, Nat.le_add_left 1 _, Config.partRevisionLessOne.isLt, answered,
      fun notValid => ?_, only⟩
    rw [provisioning_settings_of_not_valid _ notValid]
    exact ⟨rfl, rfl⟩
  · refine exec_answered .clock tag [] _ false s ready admitted ?_
    rw [← clockBody_eq]
    rfl

/-! ## Keypad codes (R44, R47, R48, R50) -/

theorem digitValue_eq_none_iff (b : Byte) : digitValue b = none ↔ b.toNat < 48 ∨ 57 < b.toNat := by
  unfold digitValue
  split <;> simp <;> omega

theorem readDigits_of_digits (body : List Byte) (acc : Nat) (h : ∀ b ∈ body, ¬(b.toNat < 48 ∨ 57 < b.toNat)) :
    readDigits acc body = some (body.foldl (fun n b => n * 10 + (b.toNat - 48)) acc) := by
  induction body generalizing acc with
  | nil => rfl
  | cons b rest ih =>
    obtain ⟨digit, digits⟩ := List.forall_mem_cons.1 h
    have value : digitValue b = some (b.toNat - 48) := if_pos (by omega)
    simp only [readDigits, value, List.foldl_cons]
    exact ih _ digits

theorem readDigits_of_not_digit (body : List Byte) (acc : Nat) (h : ∃ b ∈ body, b.toNat < 48 ∨ 57 < b.toNat) :
    readDigits acc body = none := by
  induction body generalizing acc with
  | nil => simp at h
  | cons b rest ih =>
    unfold readDigits
    cases value : digitValue b with
    | none => rfl
    | some d =>
      obtain ⟨x, hx, out⟩ := h
      obtain rfl | hx := List.mem_cons.1 hx
      · rw [(digitValue_eq_none_iff x).2 out] at value; cases value
      · exact ih _ ⟨x, hx, out⟩

theorem readKeypad_eq_none (body : List Byte)
    (h : body.length ≠ 20 ∨ (∃ b ∈ body, b.toNat < 48 ∨ 57 < b.toNat)
      ∨ 2 ^ 66 ≤ body.foldl (fun n b => n * 10 + (b.toNat - 48)) 0) : readKeypad body = none := by
  unfold readKeypad
  split
  case isTrue length =>
    by_cases digits : ∃ b ∈ body, b.toNat < 48 ∨ 57 < b.toNat
    · rw [readDigits_of_not_digit body 0 digits]
    · have tooHigh := (h.resolve_left (not_not.2 length)).resolve_left digits
      rw [readDigits_of_digits body 0 (by simpa using digits)]
      exact if_neg (Nat.not_lt.2 tooHigh)
  case isFalse => rfl

theorem serveTokens_of_settled (n : Nat) (s : State)
    (h : s.supply.power = .run ∧ s.tokens.service = .idle → s.tokens.intake = []) : serveTokens n s = s := by
  cases n with
  | zero => rfl
  | succ n =>
    unfold serveTokens
    split
    case isTrue ready => rw [h ready]
    case isFalse => rfl

theorem serveStore_of_settled (n : Nat) (s : State)
    (h : s.relay.service = none ∧ s.domain.clock.timeSet = true → s.relay.waiting = []) : serveStore n s = s := by
  cases n with
  | zero => rfl
  | succ n =>
    unfold serveStore
    split
    case isTrue ready => rw [h ready]
    case isFalse => rfl

/-- What the Token Unit takes up at the end of an event it may as well have taken up before it. -/
theorem finish_settleTokens (s : State) : finish .tokenFirst (settleTokens s) = finish .tokenFirst s := by
  have again : settleTokens (settleTokens s) = settleTokens s :=
    serveTokens_of_settled _ _ fun ⟨run, idle⟩ => settleTokens_settles s run idle
  simp only [finish, settleUnits, again]

/-- So too the Relay Store, where the Token Unit has nothing to take. -/
theorem finish_settleStore (s : State)
    (h : s.supply.power = .run ∧ s.tokens.service = .idle → s.tokens.intake = []) :
    finish .tokenFirst (settleStore s) = finish .tokenFirst s := by
  have tokens : settleTokens s = s := serveTokens_of_settled _ _ h
  have tokens' : settleTokens (settleStore s) = settleStore s :=
    serveTokens_of_settled _ _ (by simpa only [settleStore, serveStore_supply, serveStore_tokens] using h)
  have again : settleStore (settleStore s) = settleStore s :=
    serveStore_of_settled _ _ fun ⟨free, set⟩ => settleStore_settles s free set
  simp only [finish, settleUnits, tokens, tokens', again]

/-- The part with a keypad code admitted to its intake. -/
def withCode (tag : Byte) (n : BitVec 66) (s : State) : State :=
  joinIntake ⟨.keypad (arrivedRequest .enterToken tag (asciiDigits 20 n.toNat) s.link), n⟩
    (handedOver .enterToken tag (asciiDigits 20 n.toNat) s)

theorem serve_code (tag : Byte) (n : BitVec 66) (s : State) (room : s.tokens.intake.length < 4) :
    serve .enterToken (arrivedRequest .enterToken tag (asciiDigits 20 n.toNat) s.link)
      (handedOver .enterToken tag (asciiDigits 20 n.toNat) s) = withCode tag n s := by
  have hasRoom : (handedOver .enterToken tag (asciiDigits 20 n.toNat) s).tokens.hasRoom = true := decide_eq_true room
  unfold serve serveEnterToken
  simp only [arrivedRequest, readKeypad_asciiDigits, hasRoom]
  rfl

/-- An entry whose service is refused is settled, and the next is looked at (R50). -/
theorem serveTokens_refused (n : Nat) (s : State) (e : IntakeEntry) (rest : List IntakeEntry) (r : TokenResult)
    (extra : List Byte) (run : s.supply.power = .run) (idle : s.tokens.service = .idle)
    (held : s.tokens.intake = e :: rest) (refused : serviceStart s.domain.penalty e = some (r, extra)) :
    serveTokens (n + 1) s = serveTokens n (settleToken r extra s) := by
  rw [serveTokens, if_pos ⟨run, idle⟩]
  simp only [held, refused]

/-- An entry taken into service has its check digest requested (R48). -/
theorem serveTokens_taken (n : Nat) (s : State) (e : IntakeEntry) (rest : List IntakeEntry)
    (run : s.supply.power = .run) (idle : s.tokens.service = .idle) (held : s.tokens.intake = e :: rest)
    (taken : serviceStart s.domain.penalty e = none) :
    serveTokens (n + 1) s = requestDigest (checkRequest s.provisioning.settings e.token)
      { s with tokens.service := .awaitDigest } := by
  rw [serveTokens, if_pos ⟨run, idle⟩]
  simp only [held, taken]

theorem requestDigest_awake (r : DigestRequest) (s : State) (awake : s.supply.power.awake = true) :
    requestDigest r s = { s with digests := s.digests ++ [r] } := by
  unfold requestDigest
  cases h : s.supply.power
  case starting => rfl
  case run => rfl
  case holdover => rw [h] at awake; cases awake
  case off => rw [h] at awake; cases awake

theorem requestDigest_run (r : DigestRequest) (s : State) (run : s.supply.power = .run) :
    requestDigest r s = { s with digests := s.digests ++ [r] } := requestDigest_awake r s (by rw [run]; rfl)

theorem withCode_intake (tag : Byte) (n : BitVec 66) (s : State) (empty : s.tokens.intake = []) :
    (withCode tag n s).tokens.intake =
      [⟨.keypad (arrivedRequest .enterToken tag (asciiDigits 20 n.toNat) s.link), n⟩] :=
  (congrArg (· ++ _) empty).trans (List.nil_append _)

/-- The part with a keypad code taken into service, its check digest requested. -/
def withCodeServed (tag : Byte) (n : BitVec 66) (s : State) : State :=
  { handedOver .enterToken tag (asciiDigits 20 n.toNat) s with
    tokens := { s.tokens with
      intake := [⟨.keypad (arrivedRequest .enterToken tag (asciiDigits 20 n.toNat) s.link), n⟩]
      service := .awaitDigest }
    digests := s.digests ++ [checkRequest s.provisioning.settings n] }

theorem settleTokens_eq_of_length (n : Nat) (s : State) (h : s.tokens.intake.length = n) :
    settleTokens s = serveTokens n s := by rw [settleTokens, h]

/-- The refusal of a keypad code takes it from the intake again, and answers it. -/
theorem settleToken_withCode (tag : Byte) (n : BitVec 66) (s : State) (r : TokenResult) (extra : List Byte)
    (idle : s.tokens.service = .idle) (empty : s.tokens.intake = []) :
    settleToken r extra (withCode tag n s) =
      completeReply ⟨s.link.nextId, tag, RequestKind.enterToken.code, tokenReply r (tokenKind n) (tokenSerial n) extra,
        false⟩ (handedOver .enterToken tag (asciiDigits 20 n.toNat) s) := by
  obtain ⟨pending, provisioning, flash, domain, account, ⟨intake, service, window, lastRelay⟩, digests, meter, switches,
    supply, journal, relay, link, idleMs⟩ := s
  simp only at idle empty
  subst idle empty
  rfl

/-- Settles O12: the code is judged at its arrival, waits in the intake, or is served at the end of the event. -/
theorem enterTokenIsTakenOrRefused : Obligations.EnterTokenIsTakenOrRefused := by
  refine ⟨fun tag body s ready admitted => ⟨fun bad => ?_, fun n digits full => ?_⟩,
    fun tag n s ready admitted room busy => ?_, fun tag n s ready admitted run idle => ?_⟩
  · refine exec_answered .enterToken tag body _ false s ready admitted ?_
    unfold serve serveEnterToken
    simp only [arrivedRequest, readKeypad_eq_none body bad]
    rfl
  · subst digits
    refine exec_answered .enterToken tag _ _ false s ready admitted ?_
    have noRoom : (handedOver .enterToken tag (asciiDigits 20 n.toNat) s).tokens.hasRoom = false :=
      decide_eq_false (Nat.not_lt.2 full)
    unfold serve serveEnterToken
    simp only [arrivedRequest, readKeypad_asciiDigits, noRoom]
    simp [answer, tokenReply, TokenResult.code]
  · have settled := ready.2.2.1.1
    exact exec_kept .enterToken tag _ s _ ready admitted (serve_code tag n s room) rfl
      ⟨fun both => absurd both (by tauto), settled.2⟩
  · have settled := ready.2.2.1.1
    have empty := settled.1 ⟨run, idle⟩
    have intake := withCode_intake tag n s empty
    have ready' : (withCode tag n s).supply.power = .run ∧ (withCode tag n s).tokens.service = .idle := ⟨run, idle⟩
    have taken : exec (.enterToken tag (asciiDigits 20 n.toNat)) s =
        .next (finish .tokenFirst (serveTokens 1 (withCode tag n s))) := by
      rw [← settleTokens_eq_of_length 1 _ (by rw [intake]; rfl), finish_settleTokens,
        ← serve_code tag n s (by simp [empty])]
      exact exec_admitted .enterToken tag _ s ready.1 admitted
    have refused (r : TokenResult) (extra reply : List Byte)
        (h : serviceStart (withCode tag n s).domain.penalty
          ⟨.keypad (arrivedRequest .enterToken tag (asciiDigits 20 n.toNat) s.link), n⟩ = some (r, extra))
        (body : tokenReply r (tokenKind n) (tokenSerial n) extra = reply) :
        ∃ t, exec (.enterToken tag (asciiDigits 20 n.toNat)) s = .next t
          ∧ Answered .enterToken tag (asciiDigits 20 n.toNat) reply false s.link t.link
          ∧ OnlyLink s t := by
      rw [serveTokens_refused 0 _ _ [] r extra ready'.1 ready'.2 intake h, serveTokens,
        settleToken_withCode tag n s r extra idle empty, body] at taken
      obtain ⟨t, finished, same, answered, notices⟩ := finish_reply .enterToken tag (asciiDigits 20 n.toNat)
        reply false s (handedOver .enterToken tag _ s) ready rfl settled (.inl rfl)
      exact ⟨t, by rw [taken, finished], answered, same, notices⟩
    refine ⟨fun zero => ?_, fun nonzero waiting => ?_, fun nonzero notWaiting => ?_⟩
    · exact refused .badFormat [] _ (if_pos zero) (by rw [zero]; rfl)
    · refine refused .penaltyWait _ _ ((if_neg nonzero).trans (if_pos waiting)) ?_
      simp [tokenReply, TokenResult.code, withCode, joinIntake, handedOver, withFrame]
    · have start : serviceStart (withCode tag n s).domain.penalty
          ⟨.keypad (arrivedRequest .enterToken tag (asciiDigits 20 n.toNat) s.link), n⟩ = none :=
        (if_neg nonzero).trans (if_neg (Nat.not_lt.2 notWaiting.le))
      have served : serveTokens 1 (withCode tag n s) = withCodeServed tag n s := by
        rw [serveTokens_taken 0 _ _ [] ready'.1 ready'.2 intake start, requestDigest_run _ _ (by exact ready'.1),
          withCodeServed, ← intake]
        rfl
      rw [served] at taken
      have settled' : UnitsSettled (withCodeServed tag n s) := ⟨fun both => (nomatch both.2), settled.2⟩
      obtain ⟨t, finished, same, kept, notices⟩ := finish_kept .enterToken tag (asciiDigits 20 n.toNat) s
        (withCodeServed tag n s) .tokenFirst ready settled' rfl
      exact ⟨t, by rw [taken, finished], kept, notices, same⟩

end Sys2Proof.Machine
end

section
/-! The ports' requests, METER and HISTORY at their arrival (O13 to O16). -/

namespace Sys2Proof.Machine

/-! ## One port (R104, R107, R108) -/

theorem onPort_eq (i : Fin 4) (f : Port → Port) (s : State) (h : s.switches.switching = true) :
    onPort i f s = s.withPort i (f (s.switches.ports.get i)) := if_pos h

theorem withPort_get (s : State) (i : Fin 4) (p : Port) : (s.withPort i p).switches.ports.get i = p := by
  simp [State.withPort, get_set]

/-- Acting on the target leaves what the demand, the caps and the retry count are. -/
theorem actOnTarget_kept (p : Port) :
    p.actOnTarget.demand = p.demand ∧ p.actOnTarget.demandDuty = p.demandDuty
      ∧ p.actOnTarget.accountCap = p.accountCap ∧ p.actOnTarget.shedCap = p.shedCap
      ∧ p.actOnTarget.target = p.target ∧ p.actOnTarget.retry = p.retry ∧ p.actOnTarget.driven = p.driven := by
  unfold Port.actOnTarget
  split
  case h_1 => split <;> exact ⟨rfl, rfl, rfl, rfl, rfl, rfl, rfl⟩
  case h_2 => split <;> [skip; split] <;> exact ⟨rfl, rfl, rfl, rfl, rfl, rfl, rfl⟩
  case h_3 => split <;> [skip; split <;> [skip; split]] <;> exact ⟨rfl, rfl, rfl, rfl, rfl, rfl, rfl⟩
  all_goals exact ⟨rfl, rfl, rfl, rfl, rfl, rfl, rfl⟩

/-- A port is retargeted: it keeps what `actOnTarget_kept` says, and its target is the one it wants. -/
theorem retarget_kept (p : Port) :
    p.retarget.demand = p.demand ∧ p.retarget.demandDuty = p.demandDuty
      ∧ p.retarget.accountCap = p.accountCap ∧ p.retarget.shedCap = p.shedCap
      ∧ p.retarget.target = p.wanted ∧ p.retarget.retry = p.retry ∧ p.retarget.driven = p.driven := by
  unfold Port.retarget
  split
  case isTrue same => exact ⟨rfl, rfl, rfl, rfl, same.symm, rfl, rfl⟩
  case isFalse => exact actOnTarget_kept _

/-- An IDLE, waiting or latched port only records a target (R104, R113). -/
theorem retarget_of_inert (p : Port) (h : p.state = .idle ∨ p.state = .tripWait ∨ p.state = .latched) :
    p.retarget = { p with target := p.wanted } := by
  unfold Port.retarget
  split
  case isTrue same => rw [same]
  case isFalse => obtain h | h | h := h <;> simp only [Port.actOnTarget, h]

theorem setDemand_off (p : Port) (duty : Nat) (h : p.state ≠ .idle) (h' : p.state ≠ .latched) :
    p.setDemand false duty = Port.enterIdle { p with demand := false, demandDuty := duty, target := 0 } := by
  unfold Port.setDemand
  cases state : p.state with
  | idle => exact absurd state h
  | latched => exact absurd state h'
  | _ => rfl

theorem setDemand_idle_off (p : Port) (duty : Nat) (h : p.state = .idle) :
    p.setDemand false duty = { p with demand := false, demandDuty := duty, target := 0 } := by
  simp only [Port.setDemand, h]
  rfl

theorem setDemand_idle_on (p : Port) (duty : Nat) (h : p.state = .idle) :
    p.setDemand true duty =
      if min duty (min p.accountCap p.shedCap) = 0 then
        Port.enterBarred { p with demand := true, demandDuty := duty, target := min duty (min p.accountCap p.shedCap) }
      else Port.enterRamping
        { p with demand := true, demandDuty := duty, target := min duty (min p.accountCap p.shedCap), duty := 0 } := by
  simp only [Port.setDemand, h]
  rfl

theorem setDemand_on (p : Port) (duty : Nat) (h : p.state ≠ .idle) :
    p.setDemand true duty = Port.retarget { p with demand := true, demandDuty := duty } := by
  unfold Port.setDemand
  cases state : p.state with
  | idle => exact absurd state h
  | _ => rfl

theorem setDemand_latched (p : Port) (on : Bool) (duty : Nat) (h : p.state = .latched) :
    p.setDemand on duty = Port.retarget { p with demand := on, demandDuty := duty } := by
  simp only [Port.setDemand, h]

/-- What a demand leaves in every state: itself, the caps, and the target it gives (R104). -/
theorem setDemand_kept (p : Port) (on : Bool) (duty : Nat) :
    (p.setDemand on duty).demand = on ∧ (p.setDemand on duty).demandDuty = duty
      ∧ (p.setDemand on duty).accountCap = p.accountCap ∧ (p.setDemand on duty).shedCap = p.shedCap
      ∧ (p.setDemand on duty).target = if on then min duty (min p.accountCap p.shedCap) else 0 := by
  by_cases latched : p.state = .latched
  · rw [setDemand_latched p on duty latched]
    obtain ⟨demand, demandDuty, accountCap, shedCap, target, -, -⟩ :=
      retarget_kept { p with demand := on, demandDuty := duty }
    exact ⟨demand, demandDuty, accountCap, shedCap, target⟩
  · by_cases idle : p.state = .idle
    · cases on with
      | false => rw [setDemand_idle_off p duty idle]; exact ⟨rfl, rfl, rfl, rfl, rfl⟩
      | true => rw [setDemand_idle_on p duty idle]; split <;> exact ⟨rfl, rfl, rfl, rfl, rfl⟩
    · cases on with
      | false => rw [setDemand_off p duty idle latched]; exact ⟨rfl, rfl, rfl, rfl, rfl⟩
      | true =>
        rw [setDemand_on p duty idle]
        obtain ⟨demand, demandDuty, accountCap, shedCap, target, -, -⟩ :=
          retarget_kept { p with demand := true, demandDuty := duty }
        exact ⟨demand, demandDuty, accountCap, shedCap, target⟩

theorem setDemand_off_idle (p : Port) (duty : Nat) (h : p.state ≠ .latched) :
    (p.setDemand false duty).state = .idle ∧ (p.state ≠ .idle →
      (p.setDemand false duty).duty = 0 ∧ (p.setDemand false duty).retry = 0
        ∧ (p.setDemand false duty).stepTimer = 0 ∧ (p.setDemand false duty).tripWait = 0
        ∧ (p.setDemand false duty).onRun = 0) := by
  by_cases idle : p.state = .idle
  · rw [setDemand_idle_off p duty idle]
    exact ⟨idle, fun notIdle => absurd idle notIdle⟩
  · rw [setDemand_off p duty idle h]
    exact ⟨rfl, fun _ => ⟨rfl, rfl, rfl, rfl, rfl⟩⟩

/-- How a port whose state keeps its promise acts on a target (R108, Table 6-4), written out for the three states that drive. -/
theorem retarget_driving (p : Port) (target : Nat) (wanted : p.wanted = target)
    (barred : p.state = .barred → p.target = 0 ∧ p.duty = 0)
    (ramping : p.state = .ramping → p.duty < p.target)
    (on : p.state = .on → p.duty = p.target ∧ 0 < p.target) :
    (p.state = .barred ∨ p.state = .ramping ∨ p.state = .on → target = 0 →
        p.retarget.state = .barred ∧ p.retarget.duty = 0
          ∧ (p.state ≠ .barred → p.retarget.stepTimer = 0 ∧ p.retarget.onRun = 0))
    ∧ (p.state = .barred → 0 < target →
        p.retarget.state = .ramping ∧ p.retarget.duty = 0 ∧ p.retarget.stepTimer = 100)
    ∧ (p.state = .ramping → 0 < target →
        (target ≤ p.duty → p.retarget.state = .on ∧ p.retarget.duty = target ∧ p.retarget.stepTimer = 0
          ∧ p.retarget.onRun = 0)
        ∧ (p.duty < target → p.retarget.state = .ramping ∧ p.retarget.duty = p.duty
          ∧ p.retarget.stepTimer = p.stepTimer))
    ∧ (p.state = .on → 0 < target →
        (target ≤ p.duty → p.retarget.state = .on ∧ p.retarget.duty = target ∧ p.retarget.onRun = p.onRun)
        ∧ (p.duty < target → p.retarget.state = .ramping ∧ p.retarget.duty = p.duty ∧ p.retarget.stepTimer = 100
          ∧ p.retarget.onRun = 0)) := by
  subst wanted
  unfold Port.retarget
  by_cases same : p.wanted = p.target
  · rw [if_pos same, same]
    refine ⟨fun driving zero => ?_, fun state pos => ?_, fun state pos => ⟨fun le => ?_, fun _ => ⟨state, rfl, rfl⟩⟩,
      fun state pos => ⟨fun _ => ⟨state, (on state).1, rfl⟩, fun lt => ?_⟩⟩
    · obtain state | state | state := driving
      · exact ⟨state, (barred state).2, fun notBarred => absurd state notBarred⟩
      · have := ramping state; omega
      · have := on state; omega
    · have := barred state; omega
    · have := ramping state; omega
    · have := on state; omega
  · rw [if_neg same]
    refine ⟨fun driving zero => ?_, fun state pos => ?_, fun state pos => ⟨fun le => ?_, fun lt => ?_⟩,
      fun state pos => ⟨fun le => ?_, fun lt => ?_⟩⟩
    · obtain state | state | state := driving
      · have := barred state; omega
      · simp [Port.actOnTarget, state, zero, Port.enterBarred]
      · simp [Port.actOnTarget, state, zero, Port.enterBarred]
    · simp [Port.actOnTarget, state, pos.ne', Port.enterRamping]
    · simp [Port.actOnTarget, state, pos.ne', le, Port.enterOn]
    · simp [Port.actOnTarget, state, pos.ne', Nat.not_le.2 lt]
    · obtain ⟨duty, -⟩ := on state
      simp [Port.actOnTarget, state, pos.ne', show p.wanted < p.duty by omega]
    · simp [Port.actOnTarget, state, pos.ne', Nat.lt_asymm lt, lt, Port.enterRamping]

/-! ## PORT (R115) -/

theorem portNumber_of (i : Fin 4) : portNumber (BitVec.ofNat 8 i.val) = some i := by
  revert i
  decide

theorem fieldAt_head (b : Byte) (rest : List Byte) : fieldAt (b :: rest) 0 1 = b.toNat := by
  simp [fieldAt, bytesNat]

theorem fieldAt_second (a b : Byte) (rest : List Byte) : fieldAt (a :: b :: rest) 1 1 = b.toNat := by
  simp [fieldAt, bytesNat]

theorem readPort_eq_none (body : List Byte)
    (h : body.length ≠ 4 ∨ 4 ≤ fieldAt body 0 1 ∨ 2 ≤ fieldAt body 1 1) : readPort body = none := by
  unfold readPort
  split
  case h_1 port demand high low =>
    rw [fieldAt_head, fieldAt_second] at h
    split
    case h_1 => rfl
    case h_2 i number =>
      refine if_pos ?_
      unfold portNumber at number
      split at number
      case isTrue small => exact (h.resolve_left (by simp)).resolve_left (Nat.not_le.2 small)
      case isFalse => cases number
  case h_2 => rfl

theorem readPort_of (i : Fin 4) (on : Bool) (high low : Byte) :
    readPort [BitVec.ofNat 8 i.val, if on then 1 else 0, high, low] =
      some (i, on, min (high.toNat * 256 + low.toNat) 1000) := by
  simp only [readPort, portNumber_of]
  cases on <;> simp [bytesNat]

theorem portBody_eq (i : Fin 4) (q : Port) (on : Bool) (duty : Nat) (demand : q.demand = on)
    (demandDuty : q.demandDuty = duty) :
    portBody i q = 0 :: (natBytes 1 i.val ++ [q.state.code, if on then 1 else 0] ++ natBytes 2 duty
      ++ natBytes 2 q.accountCap ++ natBytes 2 q.shedCap ++ natBytes 2 q.target ++ natBytes 2 q.duty
      ++ natBytes 1 q.retry) := by
  subst demand demandDuty
  rfl

/-- Settles O13: PORT's answer and refusal, and what the demand makes of a port in each state. -/
theorem portSetsOneDemand : Obligations.PortSetsOneDemand := by
  refine ⟨fun tag i on high low s ready admitted switching => ?_, fun tag body s ready admitted bad => ?_,
    fun p duty => ⟨setDemand_off_idle p duty, fun idle => ⟨fun zero => ?_, fun nonzero => ?_⟩, fun on latched => ?_,
      fun waiting => ?_, fun on => setDemand_kept p on duty⟩, ?_⟩
  · obtain ⟨demand, demandDuty, -⟩ := setDemand_kept (s.switches.ports.get i) on
      (min (high.toNat * 256 + low.toNat) 1000)
    have handed : (handedOver .port tag [BitVec.ofNat 8 i.val, if on then 1 else 0, high, low] s).switches.switching
        = true := switching
    have served : serve .port
        (arrivedRequest .port tag [BitVec.ofNat 8 i.val, if on then 1 else 0, high, low] s.link)
        (handedOver .port tag [BitVec.ofNat 8 i.val, if on then 1 else 0, high, low] s)
        = completeReply ⟨s.link.nextId, tag, RequestKind.port.code,
            portBody i ((s.switches.ports.get i).setDemand on (min (high.toNat * 256 + low.toNat) 1000)), false⟩
          ((handedOver .port tag [BitVec.ofNat 8 i.val, if on then 1 else 0, high, low] s).withPort i
            ((s.switches.ports.get i).setDemand on (min (high.toNat * 256 + low.toNat) 1000))) := by
      simp only [serve, servePort, arrivedRequest, readPort_of, onPort_eq _ _ _ handed, withPort_get, answer]
      rfl
    obtain ⟨t, run, answered, notices, same⟩ := exec_answeredWith .port tag
      [BitVec.ofNat 8 i.val, if on then 1 else 0, high, low] _ false s _ ready admitted served rfl rfl ready.2.2.1.1
    rw [portBody_eq i _ on _ demand demandDuty] at answered
    exact ⟨t, _, run, rfl, answered, notices, same⟩
  · refine exec_answeredResult .port tag body .badRequest s ready admitted ?_
    simp only [serve, servePort, arrivedRequest, readPort_eq_none body bad]
  · rw [setDemand_idle_on p duty idle, if_pos zero]
    exact ⟨rfl, rfl⟩
  · rw [setDemand_idle_on p duty idle, if_neg nonzero]
    exact ⟨rfl, rfl, rfl⟩
  · rw [setDemand_latched p on duty latched, retarget_of_inert { p with demand := on, demandDuty := duty } (.inr (.inr latched))]
    exact ⟨latched, rfl, rfl⟩
  · rw [setDemand_on p duty (by simp [waiting]),
      retarget_of_inert { p with demand := true, demandDuty := duty } (.inr (.inl waiting))]
    exact ⟨waiting, rfl, rfl, rfl⟩
  · rintro p q duty target ⟨-, -, -, -, barred, ramping, on, -⟩ rfl rfl
    by_cases idle : p.state = .idle
    · simp [idle]
    · obtain ⟨-, -, -, -, -, retry, driven⟩ := retarget_kept { p with demand := true, demandDuty := duty }
      obtain ⟨zero, fromBarred, fromRamping, fromOn⟩ := retarget_driving { p with demand := true, demandDuty := duty }
        _ rfl (fun h => (barred h).2) (fun h => (ramping h).2) fun h => (on h).2
      rw [setDemand_on p duty idle]
      exact ⟨fun driving => ⟨retry, driven, zero driving⟩, fromBarred, fromRamping, fromOn⟩

/-! ## UNLATCH (R116) -/

theorem unlatch_of_ne (p : Port) (h : p.state ≠ .latched) : p.unlatch = p := by
  unfold Port.unlatch
  split
  case h_1 latched => exact absurd latched h
  case h_2 => rfl

theorem unlatch_latched (p : Port) (h : p.state = .latched) :
    p.unlatch.retry = 0 ∧ p.unlatch.duty = 0 ∧ p.unlatch.demand = p.demand ∧ p.unlatch.target = p.target
      ∧ p.unlatch.state = (if p.demand = false then .idle else if p.target = 0 then .barred else .ramping) := by
  unfold Port.unlatch
  simp only [h]
  cases demand : p.demand with
  | false => exact ⟨rfl, rfl, demand, rfl, rfl⟩
  | true =>
    by_cases zero : p.target = 0
    · simp [Port.enterBarred, Port.actOnTarget, zero]
    · simp [Port.enterBarred, Port.actOnTarget, Port.enterRamping, zero]

theorem readUnlatch_eq_none (body : List Byte) (h : body.length ≠ 1 ∨ 4 ≤ fieldAt body 0 1) : readUnlatch body = none := by
  unfold readUnlatch
  split
  case h_1 port =>
    rw [fieldAt_head] at h
    exact dif_neg (Nat.not_lt.2 (h.resolve_left (by simp)))
  case h_2 => rfl

theorem unlatchBody_eq (i : Fin 4) (state : PortState) (q : Port) :
    unlatchBody i (decide (state = .latched)) q =
      0 :: (natBytes 1 i.val ++ [if state = .latched then 1 else 0, q.state.code] ++ natBytes 1 q.retry) := by
  simp [unlatchBody, boolByte, ReplyResult.code]

/-- Settles O14: a latched port's release, every other port as it was, and the refusal. -/
theorem unlatchReleases : Obligations.UnlatchReleases := by
  refine ⟨fun tag i s ready admitted switching => ?_, fun tag body s ready admitted bad => ?_⟩
  · have handed : (handedOver .unlatch tag [BitVec.ofNat 8 i.val] s).switches.switching = true := switching
    have served : serve .unlatch (arrivedRequest .unlatch tag [BitVec.ofNat 8 i.val] s.link)
        (handedOver .unlatch tag [BitVec.ofNat 8 i.val] s)
        = completeReply ⟨s.link.nextId, tag, RequestKind.unlatch.code,
            unlatchBody i (decide ((s.switches.ports.get i).state = .latched)) (s.switches.ports.get i).unlatch, false⟩
          ((handedOver .unlatch tag [BitVec.ofNat 8 i.val] s).withPort i (s.switches.ports.get i).unlatch) := by
      simp only [serve, serveUnlatch, arrivedRequest, readUnlatch, portNumber_of, onPort_eq _ _ _ handed, withPort_get,
        answer]
      rfl
    obtain ⟨t, run, answered, notices, same⟩ := exec_answeredWith .unlatch tag [BitVec.ofNat 8 i.val] _ false s _
      ready admitted served rfl rfl ready.2.2.1.1
    rw [unlatchBody_eq] at answered
    exact ⟨t, _, run, answered, notices, same, unlatch_of_ne _, unlatch_latched _⟩
  · refine exec_answeredResult .unlatch tag body .badRequest s ready admitted ?_
    simp only [serve, serveUnlatch, arrivedRequest, readUnlatch_eq_none body bad]

/-! ## METER (R98) -/

theorem bytes_map {α β : Type} (f : α → β) (g : β → List Byte) (x : PerPort α) :
    (x.map f).bytes g = x.bytes (fun a => g (f a)) := rfl

theorem meterBody_eq (s : State) :
    meterBody s =
      0 :: (s.meter.ports.bytes (fun m => natBytes 4 m.count) ++ s.account.acct.marks.bytes (natBytes 4)
        ++ (s.meter.ports.zip (fun m mark => m.count - mark) s.account.acct.marks).bytes (natBytes 4)
        ++ s.meter.ports.bytes (fun m => natBytes 4 m.residue)
        ++ s.meter.ports.bytes (fun m => natBytes 2 m.lastCurrent)
        ++ s.meter.ports.bytes (fun m => [if m.sense = .fault then 1 else 0])
        ++ natBytes 2 s.meter.lastVoltage ++ [if s.meter.sampling then 1 else 0]
        ++ natBytes 2 s.account.acct.lastTally.day ++ natBytes 2 s.account.acct.lastTally.minute) := by
  simp only [meterBody, senseState_code, timeBytes, ← List.append_assoc]
  rfl

/-- Settles O15: METER is answered once the account is loaded, and joins the held requests before. -/
theorem meterReports : Obligations.MeterReports := by
  intro tag s ready admitted
  refine ⟨fun loaded => ?_, fun notLoaded => ?_⟩
  · refine exec_answered .meter tag [] _ false s ready admitted ?_
    rw [← meterBody_eq]
    exact if_pos loaded
  · refine exec_kept .meter tag [] s { handedOver .meter tag [] s with
      meter.held := s.meter.held ++ [arrivedRequest .meter tag [] s.link] } ready admitted ?_ rfl ready.2.2.1.1
    exact if_neg (Bool.eq_false_iff.1 notLoaded)

end Sys2Proof.Machine
end

section
/-! HISTORY: its page, what a valid slot is, and its reply (O16). -/

namespace Sys2Proof.Machine

/-! ## Ordered insertion -/

/-- An insertion into a list in order keeps it in order, for the order of a transitive and asymmetric relation. -/
theorem orderedInsert_inOrder {α : Type} (r : α → α → Prop) [DecidableRel r] (asymm : ∀ a b, r a b → ¬r b a)
    (trans : ∀ a b c, r a b → r b c → r a c) (a : α) (xs : List α) (h : xs.Pairwise (fun x y => ¬r y x)) :
    (xs.orderedInsert r a).Pairwise (fun x y => ¬r y x) := by
  induction xs with
  | nil => exact List.pairwise_singleton _ a
  | cons b rest ih =>
    obtain ⟨first, rest'⟩ := List.pairwise_cons.1 h
    rw [List.orderedInsert_cons]
    split
    case isTrue before =>
      refine List.pairwise_cons.2 ⟨List.forall_mem_cons.2 ⟨asymm a b before, fun y hy back => ?_⟩, h⟩
      exact first y hy (trans y a b back before)
    case isFalse after =>
      refine List.pairwise_cons.2 ⟨fun y hy => ?_, ih rest'⟩
      obtain rfl | hy := List.mem_cons.1 ((List.perm_orderedInsert r a rest).subset hy)
      · exact after
      · exact first y hy

theorem foldl_orderedInsert_inOrder {α : Type} (r : α → α → Prop) [DecidableRel r] (asymm : ∀ a b, r a b → ¬r b a)
    (trans : ∀ a b c, r a b → r b c → r a c) (xs acc : List α) (h : acc.Pairwise (fun x y => ¬r y x)) :
    (xs.foldl (fun acc a => acc.orderedInsert r a) acc).Pairwise (fun x y => ¬r y x) := by
  induction xs generalizing acc with
  | nil => exact h
  | cons a rest ih => exact ih _ (orderedInsert_inOrder r asymm trans a acc h)

theorem foldl_orderedInsert_perm {α : Type} (r : α → α → Prop) [DecidableRel r] (xs acc : List α) :
    (xs.foldl (fun acc a => acc.orderedInsert r a) acc).Perm (xs ++ acc) := by
  induction xs generalizing acc with
  | nil => exact .refl _
  | cons a rest ih =>
    exact (ih _).trans (((List.perm_orderedInsert r a acc).append_left rest).trans List.perm_middle)

/-! ## The page (R148) -/

theorem insertNewest_eq (e : Entry) (xs : List Entry) :
    insertNewest e xs = xs.orderedInsert (fun a b => b.sequence < a.sequence) e := by
  induction xs with
  | nil => rfl
  | cons x rest ih =>
    rw [insertNewest, List.orderedInsert_cons, ih]

/-- Every entry that a page may hold, newest first. -/
def historyCandidates (f : Flash) (bound : Nat) : List Entry :=
  (f.filterMap (fun x => historyOf bound x.2)).foldl (fun acc e => insertNewest e acc) []

theorem historyEntries_eq (f : Flash) (bound : Nat) : historyEntries f bound = (historyCandidates f bound).take 6 := rfl

theorem historyCandidates_inOrder (f : Flash) (bound : Nat) :
    (historyCandidates f bound).Pairwise (fun a b => b.sequence ≤ a.sequence) := by
  have ordered := foldl_orderedInsert_inOrder (fun a b : Entry => b.sequence < a.sequence)
    (fun _ _ => Nat.lt_asymm) (fun _ _ _ ab bc => Nat.lt_trans bc ab) (f.filterMap (fun x => historyOf bound x.2)) []
    .nil
  simp only [Nat.not_lt] at ordered
  simpa only [historyCandidates, insertNewest_eq] using ordered

theorem mem_historyCandidates (f : Flash) (bound : Nat) (e : Entry) :
    e ∈ historyCandidates f bound ↔ ∃ x ∈ f, historyOf bound x.2 = some e := by
  have perm := foldl_orderedInsert_perm (fun a b : Entry => b.sequence < a.sequence)
    (f.filterMap (fun x => historyOf bound x.2)) []
  simp only [historyCandidates, insertNewest_eq]
  rw [perm.mem_iff, List.append_nil, List.mem_filterMap]

theorem historyOf_eq_some_iff (bound : Nat) (c : Slot) (e : Entry) :
    historyOf bound c = some e ↔ c.valid = some e ∧ (∃ b, e.kind = .token b) ∧ (bound = 0 ∨ e.sequence < bound) := by
  unfold historyOf
  cases valid : c.valid with
  | none => simp
  | some e' =>
    simp only [Option.some.injEq]
    cases kind : e'.kind with
    | token b =>
      simp only [ite_eq_iff, Option.some.injEq, reduceCtorEq, and_false, or_false]
      constructor
      · rintro ⟨below, rfl⟩; exact ⟨rfl, ⟨b, kind⟩, below⟩
      · rintro ⟨rfl, -, below⟩; exact ⟨below, rfl⟩
    | tally => simp; rintro rfl b h; simp [kind] at h
    | suspend => simp; rintro rfl b h; simp [kind] at h
    | checkpoint w bad => simp; rintro rfl b h; simp [kind] at h

theorem mem_historyEntries (f : Flash) (bound : Nat) (e : Entry) (h : e ∈ historyEntries f bound) :
    ∃ x ∈ f, x.2.valid = some e ∧ (∃ b, e.kind = .token b) ∧ (bound = 0 ∨ e.sequence < bound) := by
  obtain ⟨x, hx, found⟩ := (mem_historyCandidates f bound e).1 (List.mem_of_mem_take h)
  exact ⟨x, hx, (historyOf_eq_some_iff bound x.2 e).1 found⟩

/-- What a full page leaves out is no newer than what it shows. -/
theorem not_mem_historyEntries (f : Flash) (bound : Nat) (e : Entry) (candidate : e ∈ historyCandidates f bound)
    (h : e ∉ historyEntries f bound) :
    (historyEntries f bound).length = 6 ∧ ∀ x ∈ historyEntries f bound, e.sequence ≤ x.sequence := by
  have ordered := historyCandidates_inOrder f bound
  rw [historyEntries_eq] at h ⊢
  rw [← List.take_append_drop 6 (historyCandidates f bound)] at candidate ordered
  have later := (List.mem_append.1 candidate).resolve_left h
  refine ⟨?_, fun x hx => (List.pairwise_append.1 ordered).2.2 x hx e later⟩
  have := List.length_pos_of_mem later
  rw [List.length_drop] at this
  rw [List.length_take]
  omega

/-! ## A valid slot (R132, R182) -/

theorem programmedBytes_eq_some_iff (image : List (Option Byte)) (bytes : List Byte) :
    programmedBytes image = some bytes ↔ image = bytes.map some := by
  induction image generalizing bytes with
  | nil =>
    cases bytes <;> simp [programmedBytes]
  | cons x rest ih =>
    cases x with
    | none => cases bytes <;> simp [programmedBytes]
    | some b =>
      cases bytes with
      | nil => simp [programmedBytes]
      | cons c cs => simp [programmedBytes, ih, and_comm, eq_comm]

theorem imageChecks_iff (image : List (Option Byte)) :
    imageChecks image = true ↔
      ∃ (bytes : List Byte) (rest : List (Option Byte)), image = bytes.map some ++ rest ∧ bytes.length = 93
        ∧ bytesNat (bytes.drop 89) = (crc32 (bytes.take 89)).toNat := by
  constructor
  · intro h
    unfold imageChecks at h
    split at h
    case h_1 => cases h
    case h_2 bytes programmed =>
      simp only [Bool.and_eq_true, decide_eq_true_eq] at h
      refine ⟨bytes, image.drop 93, ?_, h⟩
      rw [← (programmedBytes_eq_some_iff _ _).1 programmed, List.take_append_drop]
  · rintro ⟨bytes, rest, rfl, length, check⟩
    have taken : (bytes.map some ++ rest).take 93 = bytes.map some := by
      rw [List.take_append_of_le_length (by simp [length]), List.take_of_length_le (by simp [length])]
    unfold imageChecks
    simp only [taken, programmedBytes_map_some, length, check, decide_true, Bool.and_self]

theorem valid_iff (c : Slot) (e : Entry) :
    c.valid = some e ↔ ∃ (bytes : List Byte) (rest : List (Option Byte)), c = .entry e (bytes.map some ++ rest)
      ∧ bytes.length = 93 ∧ bytesNat (bytes.drop 89) = (crc32 (bytes.take 89)).toNat := by
  cases c with
  | blank => simp [Slot.valid]
  | damaged => simp [Slot.valid]
  | entry e' image =>
    simp only [Slot.valid, Slot.entry.injEq]
    constructor
    · intro h
      split at h
      case isTrue checks =>
        obtain ⟨bytes, rest, same, length, check⟩ := (imageChecks_iff image).1 checks
        exact ⟨bytes, rest, ⟨Option.some.inj h, same⟩, length, check⟩
      case isFalse => cases h
    · rintro ⟨bytes, rest, ⟨rfl, same⟩, length, check⟩
      exact if_pos ((imageChecks_iff image).2 ⟨bytes, rest, same, length, check⟩)

/-! ## The reply -/

theorem natBytes_one (v : Nat) : natBytes 1 v = [BitVec.ofNat 8 v] := by simp [natBytes]

theorem fieldAt_whole (body : List Byte) (n : Nat) (h : body.length = n) : fieldAt body 0 n = bytesNat body := by
  rw [fieldAt, List.drop_zero, List.take_of_length_le h.le]

/-- Settles O16: HISTORY's three answers, its page, what a valid slot is, and the reply's bytes. -/
theorem historyIsServedOrHeld : Obligations.HistoryIsServedOrHeld := by
  refine ⟨fun tag body s ready admitted => ⟨fun length => ?_, fun length run idle => ?_, fun length busy => ?_⟩,
    fun f bound => ⟨List.length_take_le _ _, (historyCandidates_inOrder f bound).sublist (List.take_sublist _ _),
      mem_historyEntries f bound, fun x hx e b valid kind below absent => ?_⟩, valid_iff, fun f bound => ?_⟩
  · exact exec_answeredResult .history tag body .badRequest s ready admitted (if_pos length)
  · refine exec_answered .history tag body _ false s ready admitted ?_
    rw [← fieldAt_whole body 4 length]
    exact (if_neg (not_not.2 length)).trans (if_pos ⟨run, idle⟩)
  · refine exec_kept .history tag body s { handedOver .history tag body s with
      journal.held := s.journal.held ++ [arrivedRequest .history tag body s.link] } ready admitted ?_ rfl ready.2.2.1.1
    exact (if_neg (not_not.2 length)).trans (if_neg busy)
  · exact not_mem_historyEntries f bound e ((mem_historyCandidates f bound e).2
      ⟨x, hx, (historyOf_eq_some_iff bound x.2 e).2 ⟨valid, ⟨b, kind⟩, below⟩⟩) absent
  · rw [historyBody, natBytes_one]
    refine congrArg (fun g => 0 :: ([BitVec.ofNat 8 (historyEntries f bound).length]
      ++ (historyEntries f bound).flatMap g)) (funext fun e => ?_)
    unfold historyBytes
    cases e.kind with
    | token b => simp only [timeBytes, List.append_assoc]
    | tally => rfl
    | suspend => rfl
    | checkpoint w bad => rfl

end Sys2Proof.Machine
end

section
/-! The Relay Store's requests: fields read from bytes, bundles, CARRY, HANDOFF and RECEIPTS (O7, O17 to O19). -/

namespace Sys2Proof.Machine

/-! ## Fields read from bytes (Section 12.1) -/

theorem fieldAt_cons (b : Byte) (rest : List Byte) (o n : Nat) : fieldAt (b :: rest) (o + 1) n = fieldAt rest o n := rfl

/-- A field past the first bytes of a body is one of what follows them. -/
theorem fieldAt_skip (xs ys : List Byte) (o n : Nat) (h : xs.length ≤ o) :
    fieldAt (xs ++ ys) o n = fieldAt ys (o - xs.length) n := by
  rw [fieldAt, fieldAt, List.drop_append, List.drop_of_length_le h, List.nil_append]

/-- A field that ends within the first bytes of a body is one of them. -/
theorem fieldAt_left (xs ys : List Byte) (o n : Nat) (h : o + n ≤ xs.length) :
    fieldAt (xs ++ ys) o n = fieldAt xs o n := by
  rw [fieldAt, fieldAt, List.drop_append_of_le_length (by omega), List.take_append_of_le_length (by simp; omega)]

theorem fieldAt_natBytes (n v : Nat) : fieldAt (natBytes n v) 0 n = v % 256 ^ n := by
  rw [fieldAt_whole _ n (natBytes_length n v), bytesNat_natBytes]

theorem fieldAt_natBytes_append (n v : Nat) (rest : List Byte) : fieldAt (natBytes n v ++ rest) 0 n = v % 256 ^ n := by
  rw [fieldAt_left _ _ _ _ (by simp), fieldAt_natBytes]

theorem fieldAt_singleton (b : Byte) : fieldAt [b] 0 1 = b.toNat := by simp [fieldAt, bytesNat]

/-! ## Bundles (R155, R180) -/

theorem kitNumberValid_iff (n : Nat) : kitNumberValid n = true ↔ 1 ≤ n ∧ n ≤ 4294967294 := by simp [kitNumberValid]

/-- The bytes of an item in range are its type and as many bytes as the type has. -/
theorem itemInRange_cases (b : List Byte) (h : ItemInRange b) :
    (∃ r, b = 1 :: r ∧ r.length = 22) ∨ ∃ r, b = 2 :: r ∧ r.length = 12 := by
  cases b with
  | nil => simp [ItemInRange] at h
  | cons type r =>
    simp only [ItemInRange, fieldAt_head, List.length_cons] at h
    obtain ⟨length, is1, -⟩ | ⟨length, is2, -⟩ := h
    · exact .inl ⟨r, by rw [BitVec.eq_of_toNat_eq (x := type) (y := 1) is1], by omega⟩
    · exact .inr ⟨r, by rw [BitVec.eq_of_toNat_eq (x := type) (y := 2) is2], by omega⟩

theorem spelledItem_token (r : List Byte) :
    spelledItem (1 :: r) = .token (fieldAt r 0 4) (BitVec.ofNat 66 (fieldAt r 4 9)) (fieldAt r 13 2) (fieldAt r 15 2)
      (fieldAt r 17 1) (BitVec.ofNat 32 (fieldAt r 18 4)) := if_pos (fieldAt_head 1 r)

theorem spelledItem_receipt (r : List Byte) :
    spelledItem (2 :: r) = .receipt (fieldAt r 0 4) (fieldAt r 4 2) (fieldAt r 6 2) (BitVec.ofNat 32 (fieldAt r 8 4)) :=
  if_neg (by rw [fieldAt_head]; decide)

theorem itemInRange_token (r : List Byte) (h : r.length = 22) :
    ItemInRange (1 :: r) ↔ (1 ≤ fieldAt r 0 4 ∧ fieldAt r 0 4 ≤ 4294967294) ∧ fieldAt r 17 1 ≤ 7 := by
  simp [ItemInRange, fieldAt_head, fieldAt_cons, h, and_assoc]

theorem itemInRange_receipt (r : List Byte) (h : r.length = 12) :
    ItemInRange (2 :: r) ↔ (1 ≤ fieldAt r 0 4 ∧ fieldAt r 0 4 ≤ 4294967294) ∧ fieldAt r 4 2 ≠ 0 := by
  simp [ItemInRange, fieldAt_head, fieldAt_cons, h, and_assoc]

theorem readTokenItem_iff (r : List Byte) (h : r.length = 22) (x : RelayItem) :
    readTokenItem r = some x ↔ ItemInRange (1 :: r) ∧ x = spelledItem (1 :: r) := by
  rw [itemInRange_token r h, spelledItem_token]
  unfold readTokenItem
  simp only [Bool.and_eq_true, kitNumberValid_iff, decide_eq_true_eq]
  split
  case isTrue inRange => rw [Option.some.injEq, eq_comm]; exact (and_iff_right inRange).symm
  case isFalse out => exact iff_of_false (by simp) fun both => out both.1

theorem readReceiptItem_iff (r : List Byte) (h : r.length = 12) (x : RelayItem) :
    readReceiptItem r = some x ↔ ItemInRange (2 :: r) ∧ x = spelledItem (2 :: r) := by
  rw [itemInRange_receipt r h, spelledItem_receipt]
  unfold readReceiptItem
  simp only [Bool.and_eq_true, kitNumberValid_iff, decide_eq_true_eq]
  split
  case isTrue inRange => rw [Option.some.injEq, eq_comm]; exact (and_iff_right inRange).symm
  case isFalse out => exact iff_of_false (by simp) fun both => out both.1

theorem readItems_token (n : Nat) (r more : List Byte) (h : r.length = 22) :
    readItems (n + 1) (1 :: (r ++ more)) = (readTokenItem r).bind fun x => (readItems n more).map (x :: ·) := by
  have taken : (r ++ more).take 22 = r := by rw [← h, List.take_left]
  have dropped : (r ++ more).drop 22 = more := by rw [← h, List.drop_left]
  simp only [readItems, taken, dropped, List.length_append, h, Nat.le_add_right, and_self, if_true]
  cases readTokenItem r <;> cases readItems n more <;> rfl

theorem readItems_receipt (n : Nat) (r more : List Byte) (h : r.length = 12) :
    readItems (n + 1) (2 :: (r ++ more)) = (readReceiptItem r).bind fun x => (readItems n more).map (x :: ·) := by
  have taken : (r ++ more).take 12 = r := by rw [← h, List.take_left]
  have dropped : (r ++ more).drop 12 = more := by rw [← h, List.drop_left]
  simp only [readItems, taken, dropped, List.length_append, h, Nat.le_add_right, and_self, if_true]
  cases readReceiptItem r <;> cases readItems n more <;> rfl

/-- Bytes that begin with no whole item of a defined type hold no items. -/
theorem readItems_unreadable (n : Nat) (type : Byte) (rest : List Byte) (one : ¬(type = 1 ∧ 22 ≤ rest.length))
    (two : ¬(type = 2 ∧ 12 ≤ rest.length)) : readItems (n + 1) (type :: rest) = none := by
  simp only [readItems, if_neg one, if_neg two]

theorem readItems_chunks (chunks : List (List Byte)) (h : ∀ b ∈ chunks, ItemInRange b) :
    readItems chunks.length chunks.flatten = some (chunks.map spelledItem) := by
  induction chunks with
  | nil => rfl
  | cons b rest ih =>
    obtain ⟨inRange, others⟩ := List.forall_mem_cons.1 h
    rw [List.length_cons, List.flatten_cons, List.map_cons]
    obtain ⟨r, rfl, length⟩ | ⟨r, rfl, length⟩ := itemInRange_cases b inRange
    · rw [List.cons_append, readItems_token _ r _ length, (readTokenItem_iff r length _).2 ⟨inRange, rfl⟩, ih others]
      rfl
    · rw [List.cons_append, readItems_receipt _ r _ length, (readReceiptItem_iff r length _).2 ⟨inRange, rfl⟩, ih others]
      rfl

theorem chunks_of_readItems (n : Nat) (bytes : List Byte) (items : List RelayItem) (h : readItems n bytes = some items) :
    ∃ chunks : List (List Byte), chunks.length = n ∧ bytes = chunks.flatten ∧ ∀ b ∈ chunks, ItemInRange b := by
  induction n generalizing bytes items with
  | zero =>
    unfold readItems at h
    split at h
    case isTrue empty => exact ⟨[], rfl, empty, List.forall_mem_nil _⟩
    case isFalse => cases h
  | succ n ih =>
    cases bytes with
    | nil => cases h
    | cons type rest =>
      by_cases one : type = 1 ∧ 22 ≤ rest.length
      · obtain ⟨rfl, long⟩ := one
        have length : (rest.take 22).length = 22 := List.length_take_of_le long
        rw [← List.take_append_drop 22 rest, readItems_token n _ _ length, Option.bind_eq_some_iff] at h
        obtain ⟨x, read, h⟩ := h
        obtain ⟨items', readRest, -⟩ := Option.map_eq_some_iff.1 h
        obtain ⟨chunks, count, same, inRange⟩ := ih _ items' readRest
        refine ⟨(1 :: rest.take 22) :: chunks, by rw [List.length_cons, count], ?_, List.forall_mem_cons.2
          ⟨((readTokenItem_iff _ length x).1 read).1, inRange⟩⟩
        rw [List.flatten_cons, List.cons_append, ← same, List.take_append_drop]
      · by_cases two : type = 2 ∧ 12 ≤ rest.length
        · obtain ⟨rfl, long⟩ := two
          have length : (rest.take 12).length = 12 := List.length_take_of_le long
          rw [← List.take_append_drop 12 rest, readItems_receipt n _ _ length, Option.bind_eq_some_iff] at h
          obtain ⟨x, read, h⟩ := h
          obtain ⟨items', readRest, -⟩ := Option.map_eq_some_iff.1 h
          obtain ⟨chunks, count, same, inRange⟩ := ih _ items' readRest
          refine ⟨(2 :: rest.take 12) :: chunks, by rw [List.length_cons, count], ?_, List.forall_mem_cons.2
            ⟨((readReceiptItem_iff _ length x).1 read).1, inRange⟩⟩
          rw [List.flatten_cons, List.cons_append, ← same, List.take_append_drop]
        · rw [readItems_unreadable n type rest one two] at h
          cases h

theorem readBundle_cons (count : Byte) (rest : List Byte) :
    readBundle (count :: rest) = if count.toNat ≤ 8 then readItems count.toNat rest else none := rfl

theorem toNat_ofNat_small (n : Nat) (h : n ≤ 8) : (BitVec.ofNat 8 n).toNat = n := by
  rw [BitVec.toNat_ofNat]
  omega

theorem readBundle_chunks (chunks : List (List Byte)) (few : chunks.length ≤ 8) (h : ∀ b ∈ chunks, ItemInRange b) :
    readBundle (BitVec.ofNat 8 chunks.length :: chunks.flatten) = some (chunks.map spelledItem) := by
  rw [readBundle_cons, toNat_ofNat_small _ few, if_pos few, readItems_chunks chunks h]

theorem readBundle_eq_none_iff (body : List Byte) :
    readBundle body = none ↔ ¬∃ chunks : List (List Byte), chunks.length ≤ 8
      ∧ body = BitVec.ofNat 8 chunks.length :: chunks.flatten ∧ ∀ b ∈ chunks, ItemInRange b := by
  constructor
  · rintro unread ⟨chunks, few, rfl, inRange⟩
    rw [readBundle_chunks chunks few inRange] at unread
    cases unread
  · intro noChunks
    by_contra read
    obtain ⟨items, read⟩ := Option.ne_none_iff_exists'.1 read
    cases body with
    | nil => cases read
    | cons count rest =>
      rw [readBundle_cons] at read
      split at read
      case isTrue few =>
        obtain ⟨chunks, length, same, inRange⟩ := chunks_of_readItems _ _ items read
        refine noChunks ⟨chunks, length ▸ few, ?_, inRange⟩
        rw [same, length, BitVec.ofNat_toNat, BitVec.setWidth_eq]
      case isFalse => cases read

/-- The bytes of an item with its fields in range are in range and spell the item. -/
theorem spelledItem_itemBytes (x : RelayItem)
    (h : match x with
      | .token dest _ issue expiry hop _ =>
        1 ≤ dest ∧ dest ≤ 4294967294 ∧ issue < 65536 ∧ expiry < 65536 ∧ hop ≤ 7
      | .receipt kit serial created _ =>
        1 ≤ kit ∧ kit ≤ 4294967294 ∧ 1 ≤ serial ∧ serial < 65536 ∧ created < 65536) :
    ItemInRange (itemBytes x) ∧ spelledItem (itemBytes x) = x := by
  cases x with
  | token dest tok issue expiry hop env =>
    obtain ⟨low, high, hi, he, hh⟩ := h
    have fields : ∀ r, itemBytes (.token dest tok issue expiry hop env) = 1 :: r →
        r.length = 22 ∧ fieldAt r 0 4 = dest ∧ fieldAt r 4 9 = tok.toNat ∧ fieldAt r 13 2 = issue
          ∧ fieldAt r 15 2 = expiry ∧ fieldAt r 17 1 = hop ∧ fieldAt r 18 4 = env.toNat := by
      intro r hr
      obtain rfl := (List.cons.inj hr).2
      simp only [List.append_assoc, List.length_append, natBytes_length, fieldAt_skip, fieldAt_natBytes_append,
        fieldAt_natBytes, Nat.reduceLeDiff, Nat.reduceSub, true_and]
      refine ⟨Nat.mod_eq_of_lt (by omega), Nat.mod_eq_of_lt (tok.isLt.trans (by norm_num)), Nat.mod_eq_of_lt hi,
        Nat.mod_eq_of_lt he, Nat.mod_eq_of_lt (by omega), Nat.mod_eq_of_lt env.isLt⟩
    obtain ⟨length, dest', tok', issue', expiry', hop', env'⟩ := fields _ rfl
    unfold itemBytes
    rw [itemInRange_token _ length, spelledItem_token, dest', tok', issue', expiry', hop', env']
    exact ⟨⟨⟨low, high⟩, hh⟩, by simp⟩
  | receipt kit serial created env =>
    obtain ⟨low, high, hs, hs', hc⟩ := h
    have fields : ∀ r, itemBytes (.receipt kit serial created env) = 2 :: r →
        r.length = 12 ∧ fieldAt r 0 4 = kit ∧ fieldAt r 4 2 = serial ∧ fieldAt r 6 2 = created
          ∧ fieldAt r 8 4 = env.toNat := by
      intro r hr
      obtain rfl := (List.cons.inj hr).2
      simp only [List.append_assoc, List.length_append, natBytes_length, fieldAt_skip, fieldAt_natBytes_append,
        fieldAt_natBytes, Nat.reduceLeDiff, Nat.reduceSub, true_and]
      exact ⟨Nat.mod_eq_of_lt (by omega), Nat.mod_eq_of_lt hs', Nat.mod_eq_of_lt hc, Nat.mod_eq_of_lt env.isLt⟩
    obtain ⟨length, kit', serial', created', env'⟩ := fields _ rfl
    unfold itemBytes
    rw [itemInRange_receipt _ length, spelledItem_receipt, kit', serial', created', env']
    exact ⟨⟨⟨low, high⟩, by omega⟩, by simp⟩

theorem itemBytes_length (x : RelayItem) : (itemBytes x).length = match x with
    | .token _ _ _ _ _ _ => 23
    | .receipt _ _ _ _ => 13 := by
  cases x <;> simp [itemBytes]

/-- Settles O7: the bytes of each item are a chunk in range, and the chunks are read back. -/
theorem bundlesRoundTrip : Obligations.BundlesRoundTrip := by
  intro items few inRange
  have read := readBundle_chunks (items.map itemBytes) (by rwa [List.length_map])
    (List.forall_mem_map.2 fun x hx => (spelledItem_itemBytes x (inRange x hx)).1)
  rw [List.length_map, ← List.flatMap_def, List.map_map] at read
  refine ⟨read.trans ?_, ?_⟩
  · exact congrArg some ((List.map_congr_left fun x hx => (spelledItem_itemBytes x (inRange x hx)).2).trans
      (List.map_id' items))
  · rw [List.length_flatMap]
    exact congrArg List.sum (List.map_congr_left fun x _ => itemBytes_length x)

/-! ## A request of the store (R154) -/

/-- A free store with the clock set takes a request in the event that brings it. -/
theorem exec_storeRequest (k : RequestKind) (tag : Byte) (body : List Byte) (s : State)
    (hk : k ∈ [RequestKind.carry, .handoff, .receipts]) (ready : Ready body s) (admitted : Admitted k s)
    (free : s.relay.service = none) (set : s.domain.clock.timeSet = true) :
    exec (requestOf k tag body) s =
      .next (finish .tokenFirst (takeStoreRequest (arrivedRequest k tag body s.link) (handedOver k tag body s))) := by
  obtain ⟨tokens, store, -⟩ := ready.2.2.1.1
  have empty := store ⟨free, set⟩
  have served : serve k (arrivedRequest k tag body s.link) (handedOver k tag body s) =
      { handedOver k tag body s with relay.waiting := [arrivedRequest k tag body s.link] } := by
    simp only [List.mem_cons, List.not_mem_nil, or_false] at hk
    have waiting : (handedOver k tag body s).relay.waiting = [] := empty
    obtain rfl | rfl | rfl := hk <;> simp only [serve, serveRelay, waiting, List.nil_append]
  have taken : settleStore { handedOver k tag body s with relay.waiting := [arrivedRequest k tag body s.link] } =
      takeStoreRequest (arrivedRequest k tag body s.link) (handedOver k tag body s) := by
    have bare : { handedOver k tag body s with relay.waiting := [] } = handedOver k tag body s := by
      rw [← empty]
      rfl
    rw [settleStore, List.length_singleton, serveStore, if_pos ⟨free, set⟩, ← bare]
    rfl
  have settles := finish_settleStore
    { handedOver k tag body s with relay.waiting := [arrivedRequest k tag body s.link] } tokens
  rw [exec_admitted k tag body s ready.1 admitted, served, ← settles, taken]

/-- With another request in service or the clock not set the request waits. -/
theorem exec_storeWaits (k : RequestKind) (tag : Byte) (body : List Byte) (s : State)
    (hk : k ∈ [RequestKind.carry, .handoff, .receipts]) (ready : Ready body s) (admitted : Admitted k s)
    (busy : s.relay.service ≠ none ∨ s.domain.clock.timeSet = false) :
    ∃ t, exec (requestOf k tag body) s = .next t ∧ KeptByOwner k tag body s.link t.link
      ∧ t.link.notices = s.link.notices
      ∧ t = { s with
          relay := { s.relay with waiting := s.relay.waiting ++ [arrivedRequest k tag body s.link] }
          link := t.link } := by
  obtain ⟨tokens, -, journal⟩ := ready.2.2.1.1
  refine exec_kept k tag body s { handedOver k tag body s with
    relay.waiting := s.relay.waiting ++ [arrivedRequest k tag body s.link] } ready admitted ?_ rfl
    ⟨tokens, fun ⟨free, set⟩ => ?_, journal⟩
  · simp only [List.mem_cons, List.not_mem_nil, or_false] at hk
    obtain rfl | rfl | rfl := hk <;> rfl
  · obtain service | notSet := busy
    · exact absurd free service
    · exact absurd (notSet.symm.trans set) Bool.false_ne_true

/-- A request of the store that is refused at once. -/
theorem exec_storeRefuses (k : RequestKind) (tag : Byte) (body : List Byte) (s : State)
    (hk : k ∈ [RequestKind.carry, .handoff, .receipts]) (ready : Ready body s) (admitted : Admitted k s)
    (free : s.relay.service = none) (set : s.domain.clock.timeSet = true)
    (refused : takeStoreRequest (arrivedRequest k tag body s.link) (handedOver k tag body s) =
      answerResult (arrivedRequest k tag body s.link) .badRequest (handedOver k tag body s)) :
    ∃ t, exec (requestOf k tag body) s = .next t ∧ Answered k tag body [1] false s.link t.link ∧ OnlyLink s t := by
  obtain ⟨t, finished, same, answered, notices⟩ := finish_reply k tag body [1] false s (handedOver k tag body s)
    ready rfl ready.2.2.1.1 (.inl rfl)
  refine ⟨t, ?_, answered, same, notices⟩
  rw [exec_storeRequest k tag body s hk ready admitted free set, refused, ← finished]
  rfl

/-- The store answers a request at once, its lists changed. -/
theorem exec_storeAnswers (k : RequestKind) (tag : Byte) (body reply : List Byte) (s : State) (x : RelayStore)
    (hk : k ∈ [RequestKind.carry, .handoff, .receipts]) (ready : Ready body s) (admitted : Admitted k s)
    (free : s.relay.service = none) (set : s.domain.clock.timeSet = true) (waiting : x.waiting = s.relay.waiting)
    (taken : takeStoreRequest (arrivedRequest k tag body s.link) (handedOver k tag body s) =
      answer (arrivedRequest k tag body s.link) reply { handedOver k tag body s with relay := x }) :
    ∃ t, exec (requestOf k tag body) s = .next t ∧ Answered k tag body reply false s.link t.link
      ∧ t.link.notices = s.link.notices ∧ t = { s with relay := x, link := t.link } := by
  obtain ⟨tokens, store, journal⟩ := ready.2.2.1.1
  obtain ⟨t, finished, same, answered, notices⟩ := finish_reply k tag body reply false s
    { handedOver k tag body s with relay := x } ready rfl
    ⟨tokens, fun _ => waiting.trans (store ⟨free, set⟩), journal⟩ (.inl rfl)
  refine ⟨t, ?_, answered, notices, same⟩
  rw [exec_storeRequest k tag body s hk ready admitted free set, taken, ← finished]
  rfl

/-! ## CARRY (R155) -/

/-- A CARRY taken into service, with its first item's envelope check requested. -/
def inService (tag : Byte) (body : List Byte) (item : RelayItem) (items : List RelayItem) (s : State) : State :=
  { handedOver .carry tag body s with
    relay := { s.relay with service := some ⟨arrivedRequest .carry tag body s.link, item :: items, [], none⟩ }
    digests := s.digests ++ [⟨.itemCheck, s.provisioning.settings.districtKey, item.envelopeFields⟩] }

/-- Settles O17: CARRY's four outcomes, and what a bundle is. -/
theorem carryIsTaken : Obligations.CarryIsTaken := by
  refine ⟨fun tag body s ready admitted => ⟨fun free set => ⟨fun noBundle => ?_, fun empty => ?_,
    fun item items read => ?_⟩, exec_storeWaits .carry tag body s (by simp) ready admitted⟩,
    fun body => ⟨readBundle_eq_none_iff body, ?_⟩⟩
  · refine exec_storeRefuses .carry tag body s (by simp) ready admitted free set ?_
    simp only [takeStoreRequest, arrivedRequest, requestKindOf_code, takeCarry, noBundle]
  · subst empty
    have read : readBundle [0] = some [] := rfl
    obtain ⟨t, run, answered, notices, same⟩ := exec_storeAnswers .carry tag [0]
      (0 :: (natBytes 1 s.relay.records.length ++ natBytes 1 s.relay.receipts.length)) s
      { s.relay with service := none } (by simp) ready admitted free set rfl (by
        simp only [takeStoreRequest, arrivedRequest, requestKindOf_code, takeCarry, read, carryGoOn]
        rfl)
    refine ⟨t, run, answered, same.trans ?_, notices⟩
    rw [← free]
  · obtain ⟨tokens, -, journal⟩ := ready.2.2.1.1
    have taken : takeStoreRequest (arrivedRequest .carry tag body s.link) (handedOver .carry tag body s) =
        inService tag body item items s := by
      simp only [takeStoreRequest, arrivedRequest, requestKindOf_code, takeCarry, read, carryGoOn, requestItemCheck]
      rw [requestDigest_awake _ _ (by exact ready.2.1)]
      rfl
    obtain ⟨t, finished, same, kept, notices⟩ := finish_kept .carry tag body s (inService tag body item items s)
      .tokenFirst ready ⟨tokens, fun busy => (nomatch busy.1), journal⟩ rfl
    refine ⟨t, ?_, kept, notices, same⟩
    exact (exec_storeRequest .carry tag body s (by simp) ready admitted free set).trans (by rw [taken, finished])
  · rintro chunks few rfl inRange
    exact readBundle_chunks chunks few inRange

/-! ## HANDOFF (R159) -/

theorem insertByOffers_eq (r : RelayRecord) (xs : List RelayRecord) :
    insertByOffers r xs = xs.orderedInsert (fun a b => a.offers < b.offers) r := by
  induction xs with
  | nil => rfl
  | cons x rest ih => rw [insertByOffers, List.orderedInsert_cons, ih]

theorem sortByOffers_eq (xs : List RelayRecord) :
    sortByOffers xs = xs.foldl (fun acc r => acc.orderedInsert (fun a b => a.offers < b.offers) r) [] := by
  simp only [sortByOffers, insertByOffers_eq]

theorem sortByOffers_perm (xs : List RelayRecord) : (sortByOffers xs).Perm xs := by
  rw [sortByOffers_eq]
  simpa using foldl_orderedInsert_perm (fun a b : RelayRecord => a.offers < b.offers) xs []

theorem sortByOffers_inOrder (xs : List RelayRecord) : (sortByOffers xs).Pairwise (fun a b => a.offers ≤ b.offers) := by
  have ordered := foldl_orderedInsert_inOrder (fun a b : RelayRecord => a.offers < b.offers)
    (fun _ _ => Nat.lt_asymm) (fun _ _ _ => Nat.lt_trans) xs [] .nil
  simp only [Nat.not_lt] at ordered
  rwa [sortByOffers_eq]

/-- Among records of one offer count an insertion stands last. -/
theorem insertByOffers_filter (r : RelayRecord) (xs : List RelayRecord) (o : Nat)
    (h : xs.Pairwise (fun a b => a.offers ≤ b.offers)) :
    (insertByOffers r xs).filter (fun x => x.offers = o) = (xs ++ [r]).filter (fun x => x.offers = o) := by
  induction xs with
  | nil => rfl
  | cons x rest ih =>
    obtain ⟨first, rest'⟩ := List.pairwise_cons.1 h
    unfold insertByOffers
    split
    case isTrue before =>
      by_cases eq : r.offers = o
      · have none : (x :: rest).filter (fun x => x.offers = o) = [] := by
          rw [List.filter_eq_nil_iff]
          refine List.forall_mem_cons.2 ⟨by simp; omega, fun y hy => ?_⟩
          have := first y hy
          simp
          omega
        rw [List.filter_append, none, List.filter_cons_of_pos (by simpa using eq), none]
        simp [eq]
      · rw [List.filter_append, List.filter_cons_of_neg (by simpa using eq)]
        simp [eq]
    case isFalse =>
      rw [List.cons_append, List.filter_cons, List.filter_cons, ih rest']

theorem sortByOffers_filter (xs : List RelayRecord) (o : Nat) :
    (sortByOffers xs).filter (fun r => r.offers = o) = xs.filter (fun r => r.offers = o) := by
  induction xs using List.reverseRecOn with
  | nil => rfl
  | append_singleton rest r ih =>
    have last : sortByOffers (rest ++ [r]) = insertByOffers r (sortByOffers rest) := List.foldl_concat ..
    rw [last, insertByOffers_filter r _ o (sortByOffers_inOrder rest), List.filter_append, List.filter_append, ih]

theorem handoffList_none (k : Nat) (xs : List RelayRecord) : handoffList none k xs = (sortByOffers xs).take k := rfl

theorem handoffList_none_all (k : Nat) (xs : List RelayRecord) (h : xs.length ≤ k) :
    handoffList none k xs = sortByOffers xs := by
  rw [handoffList_none, List.take_of_length_le ((sortByOffers_perm xs).length_eq.trans_le h)]

theorem handoffList_some (n k : Nat) (xs : List RelayRecord) :
    handoffList (some n) k xs = (xs.filter (fun r => r.destination = n)
      ++ sortByOffers (xs.filter (fun r => r.destination ≠ n))).take k := rfl

theorem handoffList_length (neighbour : Option Nat) (k : Nat) (xs : List RelayRecord) :
    (handoffList neighbour k xs).length = min k xs.length := by
  cases neighbour with
  | none => rw [handoffList_none, List.length_take, (sortByOffers_perm xs).length_eq]
  | some n =>
    rw [handoffList_some, List.length_take, List.length_append, (sortByOffers_perm _).length_eq]
    have split := List.length_eq_length_filter_add (l := xs) (fun r => decide (r.destination = n))
    simp only [← decide_not] at split
    rw [← split]

theorem readHandoff_of (body : List Byte) (k : Nat) (neighbour : Option Nat)
    (h : (body.length = 1 ∧ neighbour = none ∧ k = min (fieldAt body 0 1) 8)
      ∨ (body.length = 5 ∧ neighbour = some (fieldAt body 0 4) ∧ 1 ≤ fieldAt body 0 4
          ∧ fieldAt body 0 4 ≤ 4294967294 ∧ k = min (fieldAt body 4 1) 8)) :
    readHandoff body = some (k, neighbour) := by
  unfold readHandoff
  obtain ⟨length, rfl, rfl⟩ | ⟨length, rfl, low, high, rfl⟩ := h
  · rw [if_pos length]
  · rw [if_neg (by omega), if_pos ⟨length, (kitNumberValid_iff _).2 ⟨low, high⟩⟩]

theorem readHandoff_eq_none (body : List Byte)
    (h : (body.length ≠ 1 ∧ body.length ≠ 5)
      ∨ (body.length = 5 ∧ (fieldAt body 0 4 = 0 ∨ 4294967294 < fieldAt body 0 4))) : readHandoff body = none := by
  unfold readHandoff
  rw [if_neg (by omega), if_neg]
  rintro ⟨length, valid⟩
  have := (kitNumberValid_iff _).1 valid
  omega

theorem afterHandoff_eq (out xs : List RelayRecord) :
    afterHandoff out xs = xs.filterMap (fun r =>
      if out.any (fun x => x.destination = r.destination ∧ tokenSerial x.token = tokenSerial r.token) then
        if r.offers + 1 < 6 then some { r with offers := r.offers + 1 } else none
      else some r) := by
  simp [afterHandoff, RelayRecord.isFor]

/-- The reply that hands out copies, spelled out (R159). -/
theorem handedBody_records (out : List RelayRecord) (n : Nat) :
    handedBody (out.map RelayRecord.copy) n = 0 :: (natBytes 1 out.length
      ++ out.flatMap (fun r => itemBytes (.token r.destination r.token r.issueDay r.expiryDay (r.hop + 1) r.envelope))
      ++ natBytes 1 n) := by
  rw [handedBody, List.length_map, List.flatMap_map]
  rfl

theorem handedBody_receipts (out : List Receipt) (n : Nat) :
    handedBody (out.map Receipt.copy) n = 0 :: (natBytes 1 out.length
      ++ out.flatMap (fun r => itemBytes (.receipt r.kit r.serial r.created r.envelope)) ++ natBytes 1 n) := by
  rw [handedBody, List.length_map, List.flatMap_map]
  rfl

/-- Settles O18: HANDOFF's outcomes, and the order of what it hands out. -/
theorem handoffHandsOut : Obligations.HandoffHandsOut := by
  refine ⟨fun tag body s ready admitted => ⟨fun free set => ⟨fun k neighbour good => ?_, fun bad => ?_⟩,
    exec_storeWaits .handoff tag body s (by simp) ready admitted⟩, fun neighbour k n list =>
    ⟨handoffList_length neighbour k list, (sortByOffers_inOrder list).sublist (List.take_sublist _ _), fun o => ?_, ?_,
      ?_⟩⟩
  · have read := readHandoff_of body k neighbour good
    obtain ⟨t, run, answered, notices, same⟩ := exec_storeAnswers .handoff tag body
      (handedBody ((handoffList neighbour k s.relay.records).map RelayRecord.copy)
        (afterHandoff (handoffList neighbour k s.relay.records) s.relay.records).length) s
      { s.relay with records := afterHandoff (handoffList neighbour k s.relay.records) s.relay.records } (by simp)
      ready admitted free set rfl (by
        simp only [takeStoreRequest, arrivedRequest, requestKindOf_code, takeHandoff, read]
        rfl)
    have records : t.relay.records = afterHandoff (handoffList neighbour k s.relay.records) s.relay.records := by
      rw [same]
    refine ⟨t, _, run, rfl, ?_, notices, ?_, ?_⟩
    · rw [records]
      rwa [handedBody_records] at answered
    · rw [records]; exact same
    · rw [records, afterHandoff_eq]
  · refine exec_storeRefuses .handoff tag body s (by simp) ready admitted free set ?_
    simp only [takeStoreRequest, arrivedRequest, requestKindOf_code, takeHandoff, readHandoff_eq_none body bad]
  · rw [handoffList_none_all _ _ le_rfl, sortByOffers_filter]
  · rw [handoffList_none_all _ _ le_rfl, handoffList_none]
  · rw [handoffList_none_all _ _ (List.length_filter_le _ _), handoffList_some]

/-! ## RECEIPTS (R160) -/

theorem afterReceipts_eq (k : Nat) (xs : List Receipt) :
    afterReceipts k xs = ((xs.take k).map (fun r => { r with hands := r.hands + 1 })).filter (fun r => r.hands < 3)
      ++ xs.drop k := by
  rw [afterReceipts, List.filter_map, ← List.filterMap_eq_map, List.filterMap_filter]
  refine congrArg (fun f => (xs.take k).filterMap f ++ xs.drop k) (funext fun r => ?_)
  simp

/-- Settles O19: RECEIPTS' outcomes. -/
theorem receiptsHandsOut : Obligations.ReceiptsHandsOut := by
  refine fun tag body s ready admitted => ⟨fun free set => ⟨fun count one => ?_, fun bad => ?_⟩,
    exec_storeWaits .receipts tag body s (by simp) ready admitted⟩
  · subst one
    obtain ⟨t, run, answered, notices, same⟩ := exec_storeAnswers .receipts tag [count]
      (handedBody ((s.relay.receipts.take (min (fieldAt [count] 0 1) 8)).map Receipt.copy)
        (afterReceipts (min (fieldAt [count] 0 1) 8) s.relay.receipts).length) s
      { s.relay with receipts := afterReceipts (min (fieldAt [count] 0 1) 8) s.relay.receipts } (by simp)
      ready admitted free set rfl (by
        simp only [takeStoreRequest, arrivedRequest, requestKindOf_code, takeReceipts]
        rfl)
    have receipts : t.relay.receipts = afterReceipts (min (fieldAt [count] 0 1) 8) s.relay.receipts := by rw [same]
    rw [fieldAt_head] at answered receipts same
    refine ⟨t, s.relay.receipts.take (min count.toNat 8), s.relay.receipts.drop (min count.toNat 8), run,
      (List.take_append_drop _ _).symm, List.length_take, ?_, notices, ?_, ?_⟩
    · rw [receipts]
      rwa [handedBody_receipts] at answered
    · rw [receipts]; exact same
    · rw [receipts, afterReceipts_eq]
  · refine exec_storeRefuses .receipts tag body s (by simp) ready admitted free set ?_
    simp only [takeStoreRequest, arrivedRequest, requestKindOf_code, takeReceipts]
    exact if_neg bad

end Sys2Proof.Machine
end

section
/-! PROVISION judged and RESTART taken (O20, O21). -/

namespace Sys2Proof.Machine

/-! ## PROVISION (R176) -/

/-- The range tests of a body, in order of offset. -/
def rangeTests (body : List Byte) : List RangeTest := recordTests body ++ tariffOffsets.flatMap (tariffTests body)

theorem rangeTests_inOrder (body : List Byte) : ((rangeTests body).map Prod.fst).Pairwise (· < ·) :=
  List.isChain_iff_pairwise.1 (show List.IsChain (· < ·) ((rangeTests []).map Prod.fst) by decide +kernel)

/-- The first failed test of a list in strict order of offset. -/
theorem find_failed (tests : List RangeTest) (h : (tests.map Prod.fst).Pairwise (· < ·)) (o : Nat) :
    (tests.find? (fun x => !x.2)).map Prod.fst = some o ↔ (o, false) ∈ tests ∧ ∀ o' < o, (o', false) ∉ tests := by
  induction tests with
  | nil => simp
  | cons x rest ih =>
    obtain ⟨later, inOrder⟩ := List.pairwise_cons.1 h
    obtain ⟨first, good⟩ := x
    have after : ∀ p ∈ rest, first < p.1 := fun p hp => later p.1 (List.mem_map_of_mem hp)
    cases good with
    | true => simpa using ih inOrder
    | false =>
      simp only [List.find?_cons, Bool.not_false, Option.map_some, Option.some.injEq, List.mem_cons, Prod.mk.injEq,
        and_true]
      constructor
      · rintro rfl
        refine ⟨.inl rfl, fun o' before out => ?_⟩
        obtain same | inRest := out
        · omega
        · have := after _ inRest
          omega
      · rintro ⟨rfl | inRest, least⟩
        · rfl
        · exact absurd (.inl rfl) (least first (after _ inRest))

theorem mem_rangeTests (x : List (Nat × Nat × Nat × Nat)) (body : List Byte) (start o : Nat) :
    (o, false) ∈ x.map (fun r => (start + r.1, within r.2.2.1 r.2.2.2 (fieldAt body (start + r.1) r.2.1)))
      ↔ ∃ r ∈ x, o = start + r.1 ∧ (fieldAt body o r.2.1 < r.2.2.1 ∨ r.2.2.2 < fieldAt body o r.2.1) := by
  rw [List.mem_map]
  refine exists_congr fun r => and_congr_right fun _ => ?_
  rw [Prod.mk.injEq, ← Bool.not_eq_true, within_iff]
  constructor
  · rintro ⟨rfl, out⟩
    exact ⟨rfl, by omega⟩
  · rintro ⟨rfl, out⟩
    exact ⟨rfl, by omega⟩

theorem recordTests_eq (body : List Byte) :
    recordTests body =
      recordRanges.map (fun r => (0 + r.1, within r.2.2.1 r.2.2.2 (fieldAt body (0 + r.1) r.2.1)))
        ++ [(71, decide (fieldAt body 71 1 ≠ 128))] := by
  simp [recordTests, recordRanges]

theorem tariffTests_eq (body : List Byte) (o : Nat) :
    tariffTests body o =
      tariffRanges.map (fun r => (o + r.1, within r.2.2.1 r.2.2.2 (fieldAt body (o + r.1) r.2.1)))
        ++ [(o + 19, !(fieldAt body (o + 19) 1).testBit 6), (o + 20, decide (fieldAt body (o + 20) 1 % 16 ≠ 0))] := rfl

/-- A field is out of range exactly where its test fails. -/
theorem mem_rangeTests_iff (body : List Byte) (o : Nat) : (o, false) ∈ rangeTests body ↔ FieldOutOfRange body o := by
  rw [rangeTests, List.mem_append, recordTests_eq, List.mem_append, mem_rangeTests, or_assoc]
  refine or_congr (by simp only [Nat.zero_add]) (or_congr ?_ ?_)
  · simp only [List.mem_singleton, Prod.mk.injEq]
    refine and_congr_right fun at71 => ?_
    subst at71
    simp
  · simp only [tariffOffsets, List.mem_flatMap, List.mem_map, List.mem_range, exists_exists_and_eq_and]
    refine exists_congr fun i => and_congr_right fun _ => ?_
    rw [tariffTests_eq, List.mem_append, mem_rangeTests]
    refine or_congr (by simp only [Nat.add_assoc]) ?_
    simp only [List.mem_cons, List.not_mem_nil, or_false, Prod.mk.injEq, Nat.add_assoc]
    refine or_congr (and_congr_right fun at19 => ?_) (and_congr_right fun at20 => ?_)
    · subst at19
      simp
    · subst at20
      simp

theorem firstOutOfRange_iff (body : List Byte) (o : Nat) :
    firstOutOfRange body = some o ↔ FieldOutOfRange body o ∧ ∀ o' < o, ¬FieldOutOfRange body o' := by
  simp only [← mem_rangeTests_iff]
  exact find_failed (rangeTests body) (rangeTests_inOrder body) o

theorem firstOutOfRange_none_iff (body : List Byte) : firstOutOfRange body = none ↔ ∀ o, ¬FieldOutOfRange body o := by
  simp only [← mem_rangeTests_iff]
  rw [firstOutOfRange, Option.map_eq_none_iff, List.find?_eq_none]
  constructor
  · intro passed o out
    exact passed _ out rfl
  · rintro none ⟨o, passed⟩ out failed
    cases passed with
    | true => cases failed
    | false => exact none o out

theorem thresholdsOrdered_iff (f : Settings) :
    thresholdsOrdered f = true ↔ f.f2 < f.f1 ∧ f.f3 < f.f2 ∧ 10200 + 200 * f.cutoffIndex + f.hysteresis < f.f3 := by
  simp only [thresholdsOrdered, Bool.and_eq_true, decide_eq_true_eq, and_assoc]
  rfl

theorem tariffNumbersDistinct_iff (f : Settings) :
    tariffNumbersDistinct f = true ↔ f.tariffs.Pairwise (fun a b => a.number ≠ b.number) := by
  rw [tariffNumbersDistinct, decide_eq_true_eq, List.Nodup, List.pairwise_map]

/-- What a refused PROVISION is answered, test by test. -/
theorem judgeProvision_error (c : RecordCondition) (p : Power) (body reply : List Byte)
    (h : (c = .valid ∧ reply = [6])
        ∨ (c = .damaged ∧ reply = [7, 1])
        ∨ (c = .blank ∧ p ≠ .run ∧ reply = [4])
        ∨ (c = .blank ∧ p = .run ∧ body.length ≠ 240 ∧ reply = [1])
        ∨ (c = .blank ∧ p = .run ∧ body.length = 240
            ∧ ∃ o, firstOutOfRange body = some o ∧ reply = [7, 2, BitVec.ofNat 8 o])
        ∨ (c = .blank ∧ p = .run ∧ body.length = 240
            ∧ firstOutOfRange body = none ∧ thresholdsOrdered (readSettings body) = false ∧ reply = [7, 3])
        ∨ (c = .blank ∧ p = .run ∧ body.length = 240
            ∧ firstOutOfRange body = none ∧ thresholdsOrdered (readSettings body) = true
            ∧ tariffNumbersDistinct (readSettings body) = false ∧ reply = [7, 4])) :
    judgeProvision c p body = .error reply := by
  unfold judgeProvision
  obtain ⟨rfl, rfl⟩ | ⟨rfl, rfl⟩ | ⟨rfl, notRun, rfl⟩ | ⟨rfl, rfl, length, rfl⟩ | ⟨rfl, rfl, length, o, out, rfl⟩
    | ⟨rfl, rfl, length, inRange, unordered, rfl⟩ | ⟨rfl, rfl, length, inRange, ordered, same, rfl⟩ := h
  · rfl
  · rfl
  · simp [notRun, ReplyResult.code]
  · simp [length, ReplyResult.code]
  · simp [length, out, ReplyResult.code, ProvisionReason.code]
  · simp [length, inRange, unordered, ReplyResult.code, ProvisionReason.code]
  · simp [length, inRange, ordered, same, ReplyResult.code, ProvisionReason.code]

/-- Settles O20: a PROVISION is refused at the first test that fails, and programmed where none does. -/
theorem provisionIsJudged : Obligations.ProvisionIsJudged := by
  refine ⟨fun tag body s ready admitted => ⟨fun reply refused => ?_, fun blank run length inRange ordered distinct => ?_⟩,
    fun body => ⟨firstOutOfRange_iff body, firstOutOfRange_none_iff body⟩,
    fun f => ⟨thresholdsOrdered_iff f, tariffNumbersDistinct_iff f⟩⟩
  · have judged := judgeProvision_error _ _ body reply refused
    refine exec_answered .provision tag body reply false s ready admitted ?_
    unfold serve serveProvision
    simp only [handedOver, withFrame, arrivedRequest, judged]
    rfl
  · have judged := (judgeProvision_ok_iff s.provisioning.condition s.supply.power body _).2
      ⟨by rw [blank]; decide, by rw [blank]; decide, run, length, inRange, ordered, distinct, rfl⟩
    refine exec_kept .provision tag body s { handedOver .provision tag body s with
      provisioning := ⟨s.provisioning.otp, .programming, .programming (readSettings body),
        some (arrivedRequest .provision tag body s.link)⟩ } ready admitted ?_ rfl ready.2.2.1.1
    unfold serve serveProvision
    simp only [handedOver, withFrame, arrivedRequest, judged]

/-! ## RESTART (R131, R137) -/

theorem mergeLast_none (restart : Bool) (waiting : List Queued) (h : ∀ r, Queued.tally r ∉ waiting) :
    mergeLast restart waiting = none := by
  induction waiting with
  | nil => rfl
  | cons q rest ih =>
    unfold mergeLast
    rw [ih fun r hr => h r (List.mem_cons_of_mem q hr)]
    cases q with
    | tally r => exact absurd List.mem_cons_self (h r)
    | suspend => rfl
    | token t => rfl

theorem mergeLast_some (restart r : Bool) (before after : List Queued) (h : ∀ r, Queued.tally r ∉ after) :
    mergeLast restart (before ++ .tally r :: after) = some (before ++ .tally (r || restart) :: after) := by
  induction before with
  | nil => simp only [List.nil_append, mergeLast, mergeLast_none restart after h]
  | cons q rest ih => simp only [List.cons_append, mergeLast, ih]

/-- A RESTART's TALLY joins the last TALLY that waits, or the tail (R137). -/
theorem joinTally_restart (waiting joined : List Queued)
    (h : ((∀ r, Queued.tally r ∉ waiting) ∧ joined = waiting ++ [.tally true])
      ∨ (∃ before r after, waiting = before ++ .tally r :: after ∧ (∀ r, Queued.tally r ∉ after)
          ∧ joined = before ++ .tally true :: after)) : joinTally true waiting = joined := by
  unfold joinTally
  obtain ⟨none, rfl⟩ | ⟨before, r, after, rfl, none, rfl⟩ := h
  · rw [mergeLast_none true waiting none]
    rfl
  · rw [mergeLast_some true r before after none, Bool.or_true]
    rfl

theorem headBegun_iff (j : Journal) : j.headBegun = true ↔ ∃ e, j.op = .write e := by
  unfold Journal.headBegun
  cases j.op <;> simp

/-- A TALLY joins what waits in the queue, behind the entry being written. -/
theorem submitTally_waiting (restart : Bool) (s : State) (begun waiting : List Queued) (works : s.journal.failed = false)
    (queue : s.journal.queue = begun ++ waiting)
    (split : (begun = [] ∧ ((∀ e, s.journal.op ≠ .write e) ∨ waiting = []))
      ∨ (begun.length = 1 ∧ ∃ e, s.journal.op = .write e)) :
    submitTally restart s = { s with journal.queue := begun ++ joinTally restart waiting } := by
  unfold submitTally
  rw [if_neg (by rw [works]; decide), queue]
  obtain ⟨rfl, free | rfl⟩ | ⟨one, writing⟩ := split
  · have notBegun : s.journal.headBegun = false :=
      Bool.eq_false_iff.2 fun begun => let ⟨e, he⟩ := (headBegun_iff _).1 begun; free e he
    rw [notBegun]
    rfl
  · cases s.journal.headBegun <;> rfl
  · obtain ⟨q, rfl⟩ := List.length_eq_one_iff.1 one
    rw [(headBegun_iff _).2 writing]
    rfl

/-- Where the Token Unit and the Relay Store have nothing to take, the end of an event is the journal's and the link's. -/
theorem finish_journalGoOn (o : DigestOrder) (s : State)
    (tokens : s.supply.power = .run ∧ s.tokens.service = .idle → s.tokens.intake = [])
    (store : s.relay.service = none ∧ s.domain.clock.timeSet = true → s.relay.waiting = []) :
    finish o s = finish o (journalGoOn s) := by
  have settles : settleUnits o s = s := by
    cases o
    · rw [settleUnits, settleTokens, serveTokens_of_settled _ _ tokens, settleStore, serveStore_of_settled _ _ store]
    · rw [settleUnits, settleStore, serveStore_of_settled _ _ store, settleTokens, serveTokens_of_settled _ _ tokens]
  have settled : UnitsSettled (journalGoOn s) := by
    refine ⟨?_, ?_, fun ⟨works, noFlush, idle⟩ => journalGoOn_settles s works noFlush idle⟩
    · simpa using tokens
    · simpa using store
  rw [finish_unitsSettled o _ settled, finish, settles]

/-- The part with a RESTART pending. -/
def restarting (tag : Byte) (s : State) : State :=
  { handedOver .restart tag [] s with supply := { s.supply with
      restartPending := true, restartRequest := some (arrivedRequest .restart tag [] s.link) } }

/-- A RESTART with an empty body, test by test (R131). -/
theorem serve_restart (tag : Byte) (s : State) :
    serve .restart (arrivedRequest .restart tag [] s.link) (handedOver .restart tag [] s) =
      if s.supply.power ≠ .run ∨ s.supply.restartPending = true then
        answerResult (arrivedRequest .restart tag [] s.link) .busy (handedOver .restart tag [] s)
      else if s.provisioning.provisioned = true then
        if s.journal.failed = true then
          answerResult (arrivedRequest .restart tag [] s.link) .notDurable (handedOver .restart tag [] s)
        else submitTally true (restarting tag s)
      else completeReply ⟨s.link.nextId, tag, RequestKind.restart.code, [0], true⟩ (restarting tag s) := rfl

/-- Settles O21: RESTART's outcomes, by the order of its tests. -/
theorem restartIsTaken : Obligations.RestartIsTaken := by
  refine fun tag s ready admitted => ⟨fun busy => ?_, fun run free provisioned => ?_, fun run free unprovisioned => ?_⟩
  · exact exec_answered .restart tag [] [4] false s ready admitted ((serve_restart tag s).trans (if_pos busy))
  · have served : serve .restart (arrivedRequest .restart tag [] s.link) (handedOver .restart tag [] s) =
        if s.journal.failed = true then
          answerResult (arrivedRequest .restart tag [] s.link) .notDurable (handedOver .restart tag [] s)
        else submitTally true (restarting tag s) := by
      rw [serve_restart, if_neg (by simp [run, free]), if_pos provisioned]
    obtain ⟨tokens, store, journal⟩ := ready.2.2.1.1
    refine ⟨fun failed => exec_answered .restart tag [] [5] false s ready admitted (served.trans (if_pos failed)),
      fun begun waiting joined works queue split joins => ?_, fun works idle noFlush => ?_⟩
    · have busy : ¬(s.journal.failed = false ∧ s.journal.flushWait = false ∧ s.journal.op = .none) := by
        rintro ⟨-, noFlush, idle⟩
        obtain ⟨-, -, op | flush⟩ | ⟨-, e, writing⟩ := split
        · exact op idle
        · exact Bool.false_ne_true (noFlush.symm.trans flush)
        · exact nomatch idle.symm.trans writing
      have submitted := submitTally_waiting true (restarting tag s) begun waiting works queue
        (split.imp_left fun both => ⟨both.1, both.2.1⟩)
      rw [joinTally_restart waiting joined joins] at submitted
      exact exec_kept .restart tag [] s { restarting tag s with journal.queue := begun ++ joined } ready admitted
        (served.trans ((if_neg (by rw [works]; decide)).trans submitted)) rfl
        ⟨tokens, store, fun settled => absurd settled busy⟩
    · have empty := journal ⟨works, noFlush, idle⟩
      have submitted := submitTally_waiting true (restarting tag s) [] [] works empty (.inl ⟨rfl, .inr rfl⟩)
      have began : journalGoOn { restarting tag s with journal.queue := [.tally true] } =
          { restarting tag s with journal := { s.journal with
              queue := [.tally true]
              op := if 60 ≤ s.journal.nextSlot then .erase (nextGood s.journal.bad s.journal.sector)
                else .write (sealEntry s.journal.nextSequence .tally s.domain.clock.time s.account.acct) } } := by
        rw [journalGoOn, if_neg (by simp [restarting, handedOver, withFrame, works, noFlush, idle])]
        split
        case h_1 none => cases none
        case h_2 q rest queued =>
          obtain ⟨rfl, -⟩ := List.cons.inj queued
          by_cases full : 60 ≤ s.journal.nextSlot
          · rw [if_pos full]
            exact if_pos full
          · rw [if_neg full]
            exact if_neg full
      have operating : (if 60 ≤ s.journal.nextSlot then FlashOp.erase (nextGood s.journal.bad s.journal.sector)
          else .write (sealEntry s.journal.nextSequence .tally s.domain.clock.time s.account.acct)) ≠ .none := by
        split <;> exact nofun
      obtain ⟨t, finished, same, kept, notices⟩ := finish_kept .restart tag [] s
        { restarting tag s with journal := { s.journal with
            queue := [.tally true]
            op := if 60 ≤ s.journal.nextSlot then .erase (nextGood s.journal.bad s.journal.sector)
              else .write (sealEntry s.journal.nextSequence .tally s.domain.clock.time s.account.acct) } }
        .tokenFirst ready ⟨tokens, store, fun ⟨_, _, rests⟩ => absurd rests operating⟩ rfl
      · refine ⟨t, (exec_admitted .restart tag [] s ready.1 admitted).trans (congrArg _ ?_), kept, notices, same⟩
        have settles := finish_journalGoOn .tokenFirst
          { restarting tag s with journal.queue := [.tally true] } tokens store
        rw [← finished, ← began, ← settles, served, if_neg (by rw [works]; decide), submitted]
        rfl
  · refine exec_answeredWith .restart tag [] [0] true s (restarting tag s) ready admitted ?_ rfl rfl ready.2.2.1.1
    rw [serve_restart, if_neg (by simp [run, free]), if_neg (by simp [unprovisioned])]

end Sys2Proof.Machine
end

section
/-! The line: causes raised, characters, frames judged, breaks and sent frames (O22 to O26). -/

namespace Sys2Proof.Machine

/-! ## The end of an event (log entry 14) -/

theorem exec_settled (i : Instr) (s x y : State) (run : exec i s = .next (finish .tokenFirst x)) (comes : x = y)
    (settled : Settled y) : exec i s = .next y := by
  rw [run, comes, finish_settled _ _ settled]

theorem exec_unitsSettled (i : Instr) (s x y : State) (run : exec i s = .next (finish .tokenFirst x)) (comes : x = y)
    (units : UnitsSettled y) : exec i s = .next { y with link := y.link.pump } := by
  rw [run, comes, finish_unitsSettled _ _ units]

/-! ## Causes raised (R171) -/

theorem index_lt (c : NoticeCause) : c.index < 16 := by
  cases c <;> decide

theorem causeBit_getLsbD (c : NoticeCause) (i : Nat) : (causeBit c).getLsbD i = decide (i = c.index) := by
  have small := index_lt c
  rw [causeBit, BitVec.getLsbD_shiftLeft, BitVec.getLsbD_one]
  by_cases at_ : i = c.index
  · simp [at_, small]
  · by_cases below : i < c.index
    · simp [below, at_]
    · have above : i - c.index ≠ 0 := by omega
      simp [above, at_]

theorem queueNotice_eq (l : Link) : l.queueNotice = { l with transmit := l.queueNotice.transmit } := by
  unfold Link.queueNotice
  split <;> rfl

theorem waitingNotice_iff (x : TxFrame) : x.waitingNotice = true ↔ x = .notice none := by
  cases x with
  | reply r => simp [TxFrame.waitingNotice]
  | notice set => cases set <;> simp [TxFrame.waitingNotice]

theorem queueNotice_transmit (l : Link) : l.queueNotice.transmit =
    if ∀ x ∈ l.transmit, x ≠ .notice none then l.transmit ++ [.notice none] else l.transmit := by
  have waits : l.transmit.any TxFrame.waitingNotice = true ↔ ¬∀ x ∈ l.transmit, x ≠ .notice none := by
    simp [List.any_eq_true, waitingNotice_iff]
  unfold Link.queueNotice
  by_cases h : l.transmit.any TxFrame.waitingNotice = true
  · rw [if_pos h, if_neg (waits.1 h)]
  · rw [if_neg h, if_pos (not_not.1 (mt waits.2 h))]

@[simp] theorem queueNotice_replies (l : Link) : l.queueNotice.replies = l.replies := by
  unfold Link.replies
  rw [queueNotice_transmit]
  split
  · simp
  · rfl

theorem raise_awake (c : NoticeCause) (s : State) (awake : s.supply.power.awake = true) :
    raise c s = { s with link :=
      if s.link.notices = 0 then { s.link with notices := s.link.notices ||| causeBit c : Link }.queueNotice
      else { s.link with notices := s.link.notices ||| causeBit c } } := by
  unfold raise
  cases power : s.supply.power
  case starting => rfl
  case run => rfl
  case holdover => rw [power] at awake; cases awake
  case off => rw [power] at awake; cases awake

theorem raise_holdover (c : NoticeCause) (s : State) (holdover : s.supply.power = .holdover) :
    raise c s = { s with link.notices := s.link.notices ||| causeBit c } := by
  simp only [raise, holdover]

theorem raise_off (c : NoticeCause) (s : State) (off : s.supply.power = .off) : raise c s = s := by
  simp only [raise, off]

/-- A cause raised changes the notice set and the transmit list alone. -/
theorem raise_eq (c : NoticeCause) (s : State) :
    raise c s = { s with link := { s.link with
      notices := (raise c s).link.notices, transmit := (raise c s).link.transmit } } := by
  unfold raise
  split
  case h_1 => rfl
  case h_2 => rfl
  case h_3 =>
    dsimp only
    split
    · rw [queueNotice_eq]
    · rfl

@[simp] theorem raise_receiving (c : NoticeCause) (s : State) : (raise c s).link.receiving = s.link.receiving := by
  rw [raise_eq]
@[simp] theorem raise_held (c : NoticeCause) (s : State) : (raise c s).link.held = s.link.held := by rw [raise_eq]
@[simp] theorem raise_writePos (c : NoticeCause) (s : State) : (raise c s).link.writePos = s.link.writePos := by
  rw [raise_eq]
@[simp] theorem raise_reception (c : NoticeCause) (s : State) : (raise c s).link.reception = s.link.reception := by
  rw [raise_eq]
@[simp] theorem raise_onLine (c : NoticeCause) (s : State) : (raise c s).link.onLine = s.link.onLine := by rw [raise_eq]
@[simp] theorem raise_completed (c : NoticeCause) (s : State) : (raise c s).link.completed = s.link.completed := by
  rw [raise_eq]
@[simp] theorem raise_cancelled (c : NoticeCause) (s : State) : (raise c s).link.cancelled = s.link.cancelled := by
  rw [raise_eq]
@[simp] theorem raise_handed (c : NoticeCause) (s : State) : (raise c s).link.handed = s.link.handed := by rw [raise_eq]
@[simp] theorem raise_overruns (c : NoticeCause) (s : State) : (raise c s).link.overruns = s.link.overruns := by
  rw [raise_eq]
@[simp] theorem raise_errors (c : NoticeCause) (s : State) : (raise c s).link.errors = s.link.errors := by rw [raise_eq]
@[simp] theorem raise_nextId (c : NoticeCause) (s : State) : (raise c s).link.nextId = s.link.nextId := by rw [raise_eq]

@[simp] theorem raise_replies (c : NoticeCause) (s : State) : (raise c s).link.replies = s.link.replies := by
  unfold raise
  split
  case h_1 => rfl
  case h_2 => rfl
  case h_3 =>
    dsimp only
    split
    · exact queueNotice_replies _
    · rfl

theorem raise_notices (c : NoticeCause) (s : State) (on : s.supply.power ≠ .off) :
    (raise c s).link.notices = s.link.notices ||| causeBit c := by
  unfold raise
  split
  case h_1 off => exact absurd off on
  case h_2 => rfl
  case h_3 =>
    dsimp only
    split
    · rw [queueNotice_eq]
    · rfl

theorem raise_transmit (c : NoticeCause) (s : State) (awake : s.supply.power.awake = true) :
    (raise c s).link.transmit =
      if s.link.notices = 0 ∧ (∀ x ∈ s.link.transmit, x ≠ .notice none) then s.link.transmit ++ [.notice none]
      else s.link.transmit := by
  rw [raise_awake c s awake]
  by_cases empty : s.link.notices = 0
  · rw [if_pos empty, queueNotice_transmit]
    simp only [empty, true_and]
  · rw [if_neg empty, if_neg fun both => empty both.1]

/-- Settles O26: the equations of a raised cause. -/
theorem causesAreRaised : Obligations.CausesAreRaised := by
  intro c s awake
  have on : s.supply.power ≠ .off := by
    rintro off
    rw [off] at awake
    cases awake
  refine ⟨?_, fun i => ?_, raise_transmit c s awake, raise_replies c s⟩
  · exact raise_awake c s awake ▸ rfl
  · rw [raise_notices c s on, BitVec.getLsbD_or, causeBit_getLsbD]

/-! ## Characters (R165 to R167) -/

theorem exec_character (char : Byte) (stopBit : Bool) (s : State) (settled : Settled s)
    (read : s.link.receiving = true) :
    exec (.characterReceived char stopBit) s = .next { s with link := s.link.character char stopBit } := by
  have arrived : characterArrives char stopBit s = { s with link := s.link.character char stopBit } := if_pos read
  refine exec_settled _ s _ _ rfl arrived ⟨settled.1, ?_⟩
  rw [character_same]
  exact settled.2

theorem character_first (char : Byte) (stopBit : Bool) (l : Link) (idle : l.reception = none) :
    l.character char stopBit = l.storeCharacter char stopBit ⟨l.writePos, 0, [], .good⟩ := by
  simp only [Link.character, idle, Option.getD_none]

theorem character_kept (char : Byte) (stopBit : Bool) (l : Link) (r : Reception) (receives : l.reception = some r)
    (kept : r.condition = .good ∨ r.condition = .damaged) :
    l.character char stopBit = l.storeCharacter char stopBit r := by
  obtain good | damaged := kept
  · simp only [Link.character, receives, Option.getD_some, good]
  · simp only [Link.character, receives, Option.getD_some, damaged]

theorem character_counted (char : Byte) (stopBit : Bool) (l : Link) (r : Reception) (receives : l.reception = some r)
    (lost : r.condition = .overrun ∨ r.condition = .oversized) :
    l.character char stopBit = { l with reception := some { r with count := r.count + 1 } } := by
  obtain overrun | oversized := lost
  · simp only [Link.character, receives, Option.getD_some, overrun]
  · simp only [Link.character, receives, Option.getD_some, oversized]

theorem storeCharacter_overrun (char : Byte) (stopBit : Bool) (r : Reception) (l : Link) (full : l.freeRun = 0) :
    l.storeCharacter char stopBit r =
      { l with reception := some ⟨r.start, r.count + 1, [], .overrun⟩, writePos := r.start } := if_pos full

theorem storeCharacter_oversized (char : Byte) (stopBit : Bool) (r : Reception) (l : Link) (room : l.freeRun ≠ 0)
    (long : 260 ≤ r.count) :
    l.storeCharacter char stopBit r = { l with reception := some ⟨r.start, r.count + 1, [], .oversized⟩ } :=
  (if_neg room).trans (if_pos long)

theorem storeCharacter_stored (char : Byte) (stopBit : Bool) (r : Reception) (l : Link) (room : l.freeRun ≠ 0)
    (short : r.count < 260) :
    l.storeCharacter char stopBit r = { l with
      reception := some ⟨r.start, r.count + 1, r.bytes ++ [char], if stopBit then r.condition else .damaged⟩
      writePos := (l.writePos + 1) % 512 } := (if_neg room).trans (if_neg (Nat.not_le.2 short))

/-- Settles O22: a character is stored, overruns the frame, makes it oversized or is only counted. -/
theorem charactersAreStored : Obligations.CharactersAreStored := by
  refine fun char stopBit s settled => ⟨fun deaf => ?_, fun read idle => ⟨fun room => ?_, fun full => ?_⟩,
    fun r read receives => ⟨fun kept room short => ?_, fun kept full => ?_, fun kept room long => ?_, fun lost => ?_⟩⟩
  · have ignored : characterArrives char stopBit s = s := if_neg (by rw [deaf]; decide)
    exact exec_settled _ s _ s rfl ignored settled
  · rw [exec_character char stopBit s settled read, character_first char stopBit s.link idle,
      storeCharacter_stored char stopBit _ s.link room (show 0 < 260 by decide)]
    rfl
  · rw [exec_character char stopBit s settled read, character_first char stopBit s.link idle,
      storeCharacter_overrun char stopBit _ s.link full]
  · rw [exec_character char stopBit s settled read, character_kept char stopBit s.link r receives kept,
      storeCharacter_stored char stopBit r s.link room short]
  · rw [exec_character char stopBit s settled read, character_kept char stopBit s.link r receives kept,
      storeCharacter_overrun char stopBit r s.link full]
  · rw [exec_character char stopBit s settled read, character_kept char stopBit s.link r receives kept,
      storeCharacter_oversized char stopBit r s.link room long]
  · rw [exec_character char stopBit s settled read, character_counted char stopBit s.link r receives lost]

end Sys2Proof.Machine
end

section
/-! The line: frames judged, breaks, and sent frames (O23 to O25). -/

namespace Sys2Proof.Machine

/-! ## Bytes and their numbers (Section 12.1) -/

theorem foldl_bytesNat (bytes : List Byte) (acc : Nat) :
    bytes.foldl (fun acc b => acc * 256 + b.toNat) acc = acc * 256 ^ bytes.length + bytesNat bytes := by
  induction bytes generalizing acc with
  | nil => simp [bytesNat]
  | cons b rest ih =>
    rw [bytesNat, List.foldl_cons, List.foldl_cons, ih, ih (0 * 256 + b.toNat), List.length_cons]
    ring

theorem bytesNat_cons (b : Byte) (rest : List Byte) :
    bytesNat (b :: rest) = b.toNat * 256 ^ rest.length + bytesNat rest := by
  rw [bytesNat, List.foldl_cons, foldl_bytesNat, Nat.zero_mul, Nat.zero_add]

theorem bytesNat_lt (bytes : List Byte) : bytesNat bytes < 256 ^ bytes.length := by
  induction bytes with
  | nil => decide
  | cons b rest ih =>
    rw [bytesNat_cons, List.length_cons, pow_succ]
    have := b.isLt
    nlinarith

/-- Bytes of one count that stand for one number are the same bytes. -/
theorem bytesNat_inj (xs ys : List Byte) (length : xs.length = ys.length) (same : bytesNat xs = bytesNat ys) :
    xs = ys := by
  induction xs generalizing ys with
  | nil => exact (List.length_eq_zero_iff.1 length.symm).symm
  | cons x xs ih =>
    cases ys with
    | nil => cases length
    | cons y ys =>
      have length := Nat.succ.inj length
      rw [bytesNat_cons, bytesNat_cons, ← length] at same
      have small := bytesNat_lt xs
      have small' := bytesNat_lt ys
      rw [← length] at small'
      have positive : 0 < 256 ^ xs.length := Nat.pow_pos (by decide)
      have first : x.toNat = y.toNat := by
        have quotients := congrArg (· / 256 ^ xs.length) same
        simpa only [Nat.mul_comm _ (256 ^ xs.length), Nat.mul_add_div positive, Nat.div_eq_of_lt small,
          Nat.div_eq_of_lt small', Nat.add_zero] using quotients
      rw [first] at same
      rw [BitVec.eq_of_toNat_eq first, ih ys length (Nat.add_left_cancel same)]

/-- The bytes of a number that bytes stand for are those bytes. -/
theorem natBytes_bytesNat (bytes : List Byte) : natBytes bytes.length (bytesNat bytes) = bytes :=
  bytesNat_inj _ _ (natBytes_length _ _) ((bytesNat_natBytes _ _).trans (Nat.mod_eq_of_lt (bytesNat_lt bytes)))

/-! ## Frames (R167, R179) -/

theorem parseFrame_cons (tag kind length : Byte) (rest : List Byte) :
    parseFrame (tag :: kind :: length :: rest) =
      if rest.length = length.toNat + 2 then
        if (crc16 ((tag :: kind :: length :: rest).take (3 + length.toNat))).toNat
            = bytesNat (rest.drop length.toNat) then some (tag, kind, rest.take length.toNat)
        else none
      else none := rfl

theorem parseFrame_iff (bytes body : List Byte) (tag kind : Byte) :
    parseFrame bytes = some (tag, kind, body) ↔ body.length ≤ 255 ∧ bytes = frameBytes tag kind body := by
  refine ⟨fun read => ?_, fun ⟨short, same⟩ => same ▸ parseFrame_frameBytes tag kind body short⟩
  match bytes with
  | [] | [_] | [_, _] => cases read
  | tag' :: kind' :: length :: rest =>
    rw [parseFrame_cons] at read
    split at read
    case isFalse => cases read
    case isTrue count =>
      split at read
      case isFalse => cases read
      case isTrue check =>
        obtain ⟨rfl, rfl, rfl⟩ : tag' = tag ∧ kind' = kind ∧ rest.take length.toNat = body := by simpa using read
        have bodyLength : (rest.take length.toNat).length = length.toNat := List.length_take_of_le (by omega)
        have checkLength : (rest.drop length.toNat).length = 2 := by rw [List.length_drop]; omega
        refine ⟨by rw [bodyLength]; exact Nat.le_of_lt_succ length.isLt, ?_⟩
        have front : (tag' :: kind' :: length :: rest).take (3 + length.toNat) =
            tag' :: kind' :: length :: rest.take length.toNat := by rw [Nat.add_comm]; rfl
        rw [front] at check
        rw [frameBytes, bodyLength, BitVec.ofNat_toNat, BitVec.setWidth_eq, check, ← checkLength, natBytes_bytesNat]
        simp

/-- The check of a frame of a body length, as a field of its bytes. -/
theorem fieldAt_check (tag kind length : Byte) (rest : List Byte) (count : rest.length = length.toNat + 2) :
    fieldAt (tag :: kind :: length :: rest) (length.toNat + 3) 2 = bytesNat (rest.drop length.toNat) := by
  rw [fieldAt, show (tag :: kind :: length :: rest).drop (length.toNat + 3) = rest.drop length.toNat from rfl,
    List.take_of_length_le (by rw [List.length_drop]; omega)]

/-! ## A reply queued (R169) -/

/-- With fewer than four replies listed a reply joins them, and its frame's bytes are released. -/
theorem queueReply_room (r : Reply) (l : Link) (room : l.replyCount < 4) :
    (l.queueReply r).replies = l.replies ++ [r] ∧ (l.queueReply r).completed = l.completed
      ∧ (l.queueReply r).held = l.held.filter (fun h => h.id ≠ r.id) := by
  rw [Link.queueReply, if_pos room]
  exact ⟨by simp [Link.release, Link.replies], rfl, rfl⟩

/-- With four listed it waits among the completed ones. -/
theorem queueReply_full (r : Reply) (l : Link) (full : 4 ≤ l.replyCount) :
    (l.queueReply r).replies = l.replies ∧ (l.queueReply r).completed = l.completed ++ [r]
      ∧ (l.queueReply r).held = l.held := by
  rw [Link.queueReply, if_neg (Nat.not_lt.2 full)]
  exact ⟨rfl, rfl, rfl⟩

@[simp] theorem queueReply_reception (r : Reply) (l : Link) : (l.queueReply r).reception = l.reception := by
  unfold Link.queueReply
  split <;> rfl

@[simp] theorem queueReply_notices (r : Reply) (l : Link) : (l.queueReply r).notices = l.notices := by
  unfold Link.queueReply
  split <;> rfl

theorem completeReply_awake (r : Reply) (s : State) (awake : s.supply.power.awake = true)
    (wanted : r.id ∉ s.link.cancelled) :
    completeReply r s = { s with link :=
      ({ s.link with handed := s.link.handed.filter (fun i => i ≠ r.id) } : Link).queueReply r } := by
  unfold completeReply
  cases power : s.supply.power
  case starting => exact congrArg (fun l => { s with link := l }) (if_neg wanted)
  case run => exact congrArg (fun l => { s with link := l }) (if_neg wanted)
  case holdover => rw [power] at awake; cases awake
  case off => rw [power] at awake; cases awake

/-- The part with a frame's bytes in the ring, and not yet judged. -/
def withBytes (tag kind : Byte) (body : List Byte) (s : State) : State :=
  { s with link := { s.link with
    reception := some ⟨s.link.writePos, body.length + 5, frameBytes tag kind body, .good⟩
    writePos := (s.link.writePos + body.length + 5) % 512 } }

/-- The part with a valid frame held and not yet routed. -/
def withHeld (tag kind : Byte) (body : List Byte) (s : State) : State :=
  { s with link := { s.link with
    held := s.link.held ++ [⟨s.link.nextId, s.link.writePos, frameBytes tag kind body⟩]
    writePos := (s.link.writePos + body.length + 5) % 512
    nextId := s.link.nextId + 1 } }

theorem frameEnds_valid (tag kind : Byte) (body : List Byte) (s : State) (idle : s.link.reception = none)
    (short : body.length ≤ 255) :
    frameEnds (withBytes tag kind body s) = route ⟨s.link.nextId, tag, kind, body⟩ (withHeld tag kind body s) := by
  simp only [frameEnds, judgeBytes, withBytes, parseFrame_frameBytes tag kind body short, withHeld, idle]

theorem route_unknown (req : Request) (s : State) (unknown : requestKindOf req.kind = none) :
    route req s = answerResult req .unknownRequest s := by
  simp only [route, generalRefusal, unknown]

/-- A frame of an unknown kind is answered UNKNOWN_REQUEST (R168, R169). -/
theorem exec_unknown (tag kind : Byte) (body : List Byte) (s : State) (ready : Ready body s)
    (unknown : requestKindOf kind = none) :
    ∃ t, exec .frameEnd (withBytes tag kind body s) = .next t
      ∧ t = { s with link := t.link } ∧ t.link.reception = none ∧ t.link.notices = s.link.notices
      ∧ (s.link.replyCount < 4 →
          t.link.replies = s.link.replies ++ [⟨s.link.nextId, tag, kind, [2], false⟩]
          ∧ t.link.completed = s.link.completed ∧ t.link.held = s.link.held)
      ∧ (4 ≤ s.link.replyCount →
          t.link.replies = s.link.replies
          ∧ t.link.completed = s.link.completed ++ [⟨s.link.nextId, tag, kind, [2], false⟩]
          ∧ t.link.held = s.link.held ++ [⟨s.link.nextId, s.link.writePos, frameBytes tag kind body⟩]) := by
  obtain ⟨⟨read, idle, short, room⟩, awake, ⟨units, line⟩, heldFresh, handedFresh, cancelledFresh⟩ := ready
  have wanted : s.link.nextId ∉ s.link.cancelled := fun mem => Nat.lt_irrefl _ (cancelledFresh _ mem)
  have judged := (frameEnds_valid tag kind body s idle short).trans (route_unknown _ _ unknown)
  have answered := completeReply_awake ⟨s.link.nextId, tag, kind, [2], false⟩ (withHeld tag kind body s) awake wanted
  refine ⟨_, exec_unitsSettled .frameEnd _ _ _ rfl (judged.trans answered) units, rfl, ?_⟩
  have released : (withHeld tag kind body s).link.held.filter (fun h => h.id ≠ s.link.nextId) = s.link.held := by
    simp only [withHeld, List.filter_append]
    rw [List.filter_eq_self.2 fun h hh => decide_eq_true (heldFresh h hh).ne]
    simp
  refine ⟨?_, ?_, fun room => ?_, fun full => ?_⟩
  · simpa [withHeld] using idle
  · simp [withHeld]
  · obtain ⟨replies, completed, held⟩ := queueReply_room ⟨s.link.nextId, tag, kind, [2], false⟩
      { (withHeld tag kind body s).link with handed := s.link.handed.filter (fun i => i ≠ s.link.nextId) } room
    exact ⟨(pump_replies _).trans replies, (pump_completed _).trans completed,
      (pump_held _).trans (held.trans released)⟩
  · obtain ⟨replies, completed, held⟩ := queueReply_full ⟨s.link.nextId, tag, kind, [2], false⟩
      { (withHeld tag kind body s).link with handed := s.link.handed.filter (fun i => i ≠ s.link.nextId) } full
    exact ⟨(pump_replies _).trans replies, (pump_completed _).trans completed, (pump_held _).trans held⟩

theorem requestKindOf_eq (k : RequestKind) : requestKindOf k.code = some k := by cases k <;> rfl

/-- Settles O23: a frame that ends is counted, refused, or does what its request does; and what a frame is. -/
theorem framesAreJudged : Obligations.FramesAreJudged := by
  refine ⟨fun s settled awake => ⟨fun idle => ?_, fun r receives => ⟨fun overrun => ?_, fun bad notOverrun => ?_⟩⟩,
    fun tag kind body s ready => ⟨exec_unknown tag kind body s ready, fun k known => ?_⟩,
    fun bytes body tag kind => parseFrame_iff bytes body tag kind, ?_, ?_⟩
  · have nothing : frameEnds s = s := by simp only [frameEnds, idle]
    exact exec_settled _ s _ s rfl nothing settled
  · have ended : frameEnds s = raise .linkOverrun { s with link := { s.link with
        reception := none, overruns := countUp s.link.overruns } } := by
      simp only [frameEnds, receives, overrun]
    have units : UnitsSettled (raise .linkOverrun { s with link := { s.link with
        reception := none, overruns := countUp s.link.overruns } }) := by simpa [UnitsSettled] using settled.1
    refine ⟨_, exec_unitsSettled .frameEnd s _ _ rfl ended units, ?_, ?_⟩
    · rw [raise_awake _ _ (by exact awake)]
    · simp only [pump_reception, pump_overruns, pump_errors, pump_notices, pump_replies, pump_held, pump_completed,
        raise_reception, raise_overruns, raise_errors, raise_replies, raise_held, raise_completed]
      refine ⟨trivial, rfl, trivial, ?_, rfl, trivial, trivial⟩
      rw [raise_notices]
      · rfl
      · intro off
        rw [show s.supply.power = .off from off] at awake
        cases awake
  · have ended : frameEnds s = { s with link := { s.link with
        reception := none, errors := min (s.link.errors + 1) 65535 } } := by
      unfold frameEnds
      simp only [receives]
      cases condition : r.condition with
      | overrun => exact absurd condition notOverrun
      | oversized => rfl
      | damaged => rfl
      | good =>
        have malformed : parseFrame r.bytes = none := by simpa [condition] using bad
        simp only [judgeBytes, malformed]
        rfl
    exact exec_settled .frameEnd s _ _ rfl ended settled
  · subst known
    have judged := frameEnds_valid tag k.code body s ready.1.2.1 ready.1.2.2.1
    rw [exec_requestOf, receiveFrame_room k tag body s ready.1]
    exact congrArg (fun x => Host.Outcome.next (finish .tokenFirst x)) judged
  · rintro bytes tag kind length rest rfl
    rw [parseFrame_cons, Nat.add_comm 3]
    refine ⟨fun count => if_neg count, fun count check => ?_, fun count check => ?_⟩
    · rw [fieldAt_check tag kind length rest count] at check
      rw [if_pos count, if_neg (Ne.symm check)]
    · rw [fieldAt_check tag kind length rest count] at check
      rw [if_pos count, if_pos check.symm]
  · rintro bytes short
    match bytes with
    | [] | [_] | [_, _] => rfl
    | _ :: _ :: _ :: _ => simp at short; omega

end Sys2Proof.Machine
end

section
/-! Breaks and sent frames (O24, O25). -/

namespace Sys2Proof.Machine

/-! ## The core's restart (R131) -/

theorem cutOperation_eq (cut : FlashCut) (s : State) :
    cutOperation cut s = { s with flash := (cutOperation cut s).flash } := by
  unfold cutOperation
  repeat' split
  all_goals rfl

theorem cutOperation_none (cut : FlashCut) (s : State) (idle : s.journal.op = .none) : cutOperation cut s = s := by
  simp only [cutOperation, idle]

/-- A core that has just been powered has nothing to take up, to write or to send. -/
theorem corePowerUp_settled (s : State) : Settled (corePowerUp s) :=
  ⟨⟨fun both => (nomatch both.1), fun _ => rfl, fun _ => rfl⟩, fun _ => rfl⟩

/-- What a restart of the core makes of the part's blocks (R131). -/
theorem coreRestart_blocks (s : State) :
    (coreRestart s).supply = Supply.start .starting ∧ (coreRestart s).link = Link.start true
      ∧ (coreRestart s).account = AccountBlock.start ∧ (coreRestart s).tokens = TokenUnit.start
      ∧ (coreRestart s).switches = Switches.start ∧ (coreRestart s).journal = Journal.start
      ∧ (coreRestart s).relay = RelayStore.start ∧ (coreRestart s).meter = Meter.start :=
  ⟨rfl, rfl, rfl, rfl, rfl, rfl, rfl, rfl⟩

theorem coreRestart_domain (s : State) : (coreRestart s).domain = s.domain :=
  show (cutOperation ⟨true, []⟩ s).domain = s.domain by rw [cutOperation_eq]

theorem coreRestart_flash (s : State) (idle : s.journal.op = .none) : (coreRestart s).flash = s.flash :=
  show (cutOperation ⟨true, []⟩ s).flash = s.flash by rw [cutOperation_none _ s idle]

/-- The record survives a reset of the core, but for a programming that it cuts off (R177). -/
theorem coreReset_otp (p : Provisioning) (h : ∀ f, p.phase ≠ .programming f) : p.coreReset.otp = p.otp := by
  unfold Provisioning.coreReset
  split
  case h_1 f programming => exact absurd programming (h f)
  case h_2 => rfl

theorem coreRestart_otp (s : State) (h : ∀ f, s.provisioning.phase ≠ .programming f) :
    (coreRestart s).provisioning.otp = s.provisioning.otp := by
  have kept : (cutOperation ⟨true, []⟩ s).provisioning = s.provisioning := by rw [cutOperation_eq]
  exact (congrArg (fun p => p.coreReset.otp) kept).trans (coreReset_otp _ h)

/-! ## Breaks (R170) -/

theorem beginSending_keeps_begun (set : BitVec 16) (xs : List TxFrame) (x : BitVec 16) (h : .notice (some x) ∈ xs) :
    .notice (some x) ∈ (beginSending set xs).1 := by
  induction xs with
  | nil => cases h
  | cons y rest ih =>
    cases y with
    | reply r => exact h
    | notice o =>
      cases o with
      | some y => exact h
      | none =>
        have inRest : .notice (some x) ∈ rest := by simpa using h
        unfold beginSending
        split
        · exact ih inRest
        · exact List.mem_cons_of_mem _ inRest

/-- With causes in the set a NOTICE frame that waits is sent or goes on waiting. -/
theorem beginSending_keeps_notice (set : BitVec 16) (xs : List TxFrame) (some_ : set ≠ 0) (o : Option (BitVec 16))
    (h : .notice o ∈ xs) : ∃ o', TxFrame.notice o' ∈ (beginSending set xs).1 := by
  cases o with
  | some x => exact ⟨some x, beginSending_keeps_begun set xs x h⟩
  | none =>
    cases xs with
    | nil => cases h
    | cons y rest =>
      cases y with
      | reply r => exact ⟨none, h⟩
      | notice o =>
        cases o with
        | some y => exact ⟨none, h⟩
        | none => exact ⟨some set, by rw [beginSending, if_neg some_]; exact List.mem_cons_self⟩

theorem beginSending_waiting (set : BitVec 16) (xs : List TxFrame) :
    ((beginSending set xs).1.filter (fun x => x = .notice none)).length
      ≤ (xs.filter (fun x => x = .notice none)).length := by
  induction xs with
  | nil => exact le_rfl
  | cons y rest ih =>
    cases y with
    | reply r => exact le_rfl
    | notice o =>
      cases o with
      | some y => exact le_rfl
      | none =>
        unfold beginSending
        split
        · exact ih.trans (by simp)
        · simp

theorem beginSending_length (set : BitVec 16) (xs : List TxFrame) : (beginSending set xs).1.length ≤ xs.length := by
  induction xs with
  | nil => exact le_rfl
  | cons y rest ih =>
    cases y with
    | reply r => exact le_rfl
    | notice o =>
      cases o with
      | some y => exact le_rfl
      | none =>
        unfold beginSending
        split
        · exact ih.trans (Nat.le_succ _)
        · exact le_rfl

/-- A link either leaves its transmit list or begins to send from it. -/
theorem pump_transmit (l : Link) :
    l.pump.transmit = l.transmit ∨ l.pump.transmit = (beginSending l.notices l.transmit).1 := by
  unfold Link.pump
  split
  · exact .inr rfl
  · exact .inl rfl

theorem queueNotice_waits (l : Link) : TxFrame.notice none ∈ l.queueNotice.transmit := by
  rw [queueNotice_transmit]
  split
  case isTrue => exact List.mem_append_right _ List.mem_cons_self
  case isFalse waits =>
    simp only [not_forall, not_not] at waits
    obtain ⟨x, mem, rfl⟩ := waits
    exact mem

theorem queueNotice_waiting (l : Link) (h : (l.transmit.filter (fun x => x = .notice none)).length ≤ 1) :
    (l.queueNotice.transmit.filter (fun x => x = .notice none)).length ≤ 1 := by
  rw [queueNotice_transmit]
  split
  case isTrue noneWaits =>
    rw [List.filter_append, List.filter_eq_nil_iff.2 fun x hx => by simpa using noneWaits x hx]
    exact le_rfl
  case isFalse => exact h

/-- The link that reads the line again after a break. -/
def Link.resume (l : Link) : Link :=
  if l.notices = 0 then { l with receiving := true } else { l with receiving := true : Link }.queueNotice

theorem breakEnds_resumes (s : State) (awake : s.supply.power.awake = true) (deaf : s.link.receiving = false) :
    breakEnds s = { s with link := s.link.resume } := if_pos (by rw [awake, deaf]; rfl)

theorem resume_eq (l : Link) : l.resume = { l with receiving := true, transmit := l.resume.transmit } := by
  unfold Link.resume
  split
  · rfl
  · rw [queueNotice_eq]

theorem resume_transmit (l : Link) : l.resume.transmit = l.transmit ∨ l.resume.transmit = l.queueNotice.transmit := by
  unfold Link.resume
  split
  · exact .inl rfl
  · refine .inr ?_
    rw [queueNotice_transmit, queueNotice_transmit]

theorem resume_replies (l : Link) : l.resume.replies = l.replies := by
  unfold Link.resume
  split
  · rfl
  · exact queueNotice_replies _

/-- Settles O24: what a break clears, and how reception resumes. -/
theorem breaksClearTheLink : Obligations.BreaksClearTheLink := by
  refine ⟨fun s settled => ⟨fun deaf => ?_, fun read plain => ?_, fun read restarts => ?_⟩,
    fun s settled => ⟨fun awake deaf empty free => ?_, fun awake deaf => ?_, fun not => ?_⟩⟩
  · have ignored : breakTaken s = s := if_neg (by rw [deaf]; decide)
    exact exec_settled .lineBreak s _ s rfl ignored settled
  · have taken : breakTaken s = { s with link := s.link.break } :=
      (if_pos read).trans (if_neg (by rw [plain]; decide))
    exact exec_settled .lineBreak s _ _ rfl taken ⟨settled.1, fun ⟨read', _⟩ => nomatch read'⟩
  · have taken : breakTaken s = coreRestart { s with link := s.link.break } := (if_pos read).trans (if_pos restarts)
    obtain ⟨supply, link, account, -, switches, -⟩ := coreRestart_blocks { s with link := s.link.break }
    exact ⟨_, exec_settled .lineBreak s _ _ rfl taken (corePowerUp_settled _), supply, link, account, switches,
      coreRestart_domain _,
      coreRestart_otp { s with link := s.link.break }, coreRestart_flash { s with link := s.link.break }⟩
  · refine (exec_unitsSettled .lineBreakEnd s _ _ rfl (breakEnds_resumes s awake deaf) settled.1).trans ?_
    have resumed : s.link.resume.pump = { s.link with
        receiving := true
        transmit := if s.link.notices = 0 then [] else [.notice (some s.link.notices)]
        onLine := if s.link.notices = 0 then none else some (noticeBytes s.link.notices) } := by
      unfold Link.resume
      by_cases clear : s.link.notices = 0
      · rw [if_pos clear, if_pos clear, if_pos clear]
        simp [Link.pump, free, empty, beginSending]
      · rw [if_neg clear, if_neg clear, if_neg clear, queueNotice_eq]
        have noticed : (beginSending s.link.notices [.notice none]) =
            ([.notice (some s.link.notices)], some (noticeBytes s.link.notices)) := if_neg clear
        simp [Link.pump, free, empty, queueNotice_transmit, noticed]
    rw [resumed]
  · refine ⟨_, exec_unitsSettled .lineBreakEnd s _ _ rfl (breakEnds_resumes s awake deaf) settled.1, ⟨rfl, ?_⟩, ?_,
      (pump_replies _).trans (resume_replies _), ?_, fun some_ => ?_, fun few => ?_⟩
    · rw [pump_notices, resume_eq]
    · rw [pump_receiving, resume_eq]
    · rw [pump_cancelled, resume_eq]
    · have waits : TxFrame.notice none ∈ s.link.resume.transmit := by
        rw [Link.resume, if_neg some_]
        exact queueNotice_waits _
      obtain same | began := pump_transmit s.link.resume
      · exact ⟨none, same ▸ waits⟩
      · rw [began]
        exact beginSending_keeps_notice _ _ (by rw [resume_eq]; exact some_) none waits
    · have resumed : (s.link.resume.transmit.filter (fun x => x = .notice none)).length ≤ 1 := by
        obtain same | queued := resume_transmit s.link
        · rwa [same]
        · rw [queued]
          exact queueNotice_waiting _ few
      obtain same | began := pump_transmit s.link.resume
      · rwa [same]
      · rw [began]
        exact (beginSending_waiting _ _).trans resumed
  · have ignored : breakEnds s = s := by
      refine if_neg ?_
      obtain asleep | read := not
      · simp [asleep]
      · simp [read]
    exact exec_settled .lineBreakEnd s _ s rfl ignored settled

/-! ## Sent frames (R169, R171, R131) -/

theorem promote_lists (l : Link) :
    l.promote.replies = l.replies ++ l.completed.take 1 ∧ l.promote.completed = l.completed.drop 1
      ∧ l.promote.held = l.held.filter (fun h => h.id ∉ (l.completed.take 1).map Reply.id)
      ∧ l.promote.notices = l.notices := by
  unfold Link.promote
  cases completed : l.completed with
  | nil => simp [completed]
  | cons r rest => simp [Link.release, Link.replies]

/-- A frame that has been sent leaves the list. -/
theorem frameLeaves_sent (s : State) (x : TxFrame) (rest : List TxFrame) (sending : s.link.onLine ≠ none)
    (list : s.link.transmit = x :: rest) :
    frameLeaves s = match x with
      | .notice _ => { s with link := { s.link with transmit := rest, onLine := none } }
      | .reply r =>
        if r.restarts then coreRestart { s with link := { s.link with transmit := rest, onLine := none } }
        else { s with link := ({ s.link with transmit := rest, onLine := none } : Link).promote } := by
  obtain ⟨bytes, line⟩ := Option.ne_none_iff_exists'.1 sending
  cases x <;> simp only [frameLeaves, line, list]

/-- Settles O25: a sent NOTICE frame, reply, or reply to a RESTART leaves the list. -/
theorem sentFramesLeave : Obligations.SentFramesLeave := by
  refine fun s settled => ⟨fun free => ?_, fun x rest sending list => ⟨fun set isNotice => ?_, fun r isReply plain => ?_,
    fun r isReply restarts => ?_⟩⟩
  · have nothing : frameLeaves s = s := by simp only [frameLeaves, free]
    exact exec_settled .frameSent s _ s rfl nothing settled
  all_goals have left := frameLeaves_sent s x rest sending list
  · subst isNotice
    refine ⟨_, exec_unitsSettled .frameSent s _ _ rfl left settled.1, ⟨rfl, pump_notices _⟩, ?_, ?_, fun x begun => ?_,
      pump_completed _, pump_held _⟩
    · rw [pump_replies]
      simp [Link.replies, list]
    · obtain same | began := pump_transmit { s.link with transmit := rest, onLine := none }
      · exact same ▸ le_rfl
      · exact began ▸ beginSending_length _ _
    · obtain same | began := pump_transmit { s.link with transmit := rest, onLine := none }
      · exact same ▸ begun
      · exact began ▸ beginSending_keeps_begun _ _ x begun
  · subst isReply
    simp only [plain] at left
    obtain ⟨replies, completed, held, notices⟩ := promote_lists { s.link with transmit := rest, onLine := none }
    have queued : s.link.replies = r :: ({ s.link with transmit := rest, onLine := none } : Link).replies := by
      simp [Link.replies, list]
    refine ⟨_, exec_unitsSettled .frameSent s _ _ rfl left settled.1, ⟨rfl, (pump_notices _).trans notices⟩, ?_, ?_,
      (pump_completed _).trans completed, (pump_held _).trans held⟩
    · rw [queued, List.tail_cons]
    · rw [queued, List.tail_cons]
      exact (pump_replies _).trans replies
  · subst isReply
    simp only [restarts, if_true] at left
    obtain ⟨supply, link, account, tokens, switches, journal, relay, meter⟩ :=
      coreRestart_blocks { s with link := { s.link with transmit := rest, onLine := none } }
    exact ⟨_, exec_settled .frameSent s _ _ rfl left (corePowerUp_settled _), supply, link, account, tokens, switches,
      journal, relay, meter, coreRestart_domain _,
      coreRestart_otp { s with link := { s.link with transmit := rest, onLine := none } }⟩

end Sys2Proof.Machine
end

section
/-! The clock domain: seconds and minutes counted, the core asleep, milliseconds, and the crystal (O27, O28, O32, O34). -/

namespace Sys2Proof.Machine

/-! ## What a second makes of the clock domain (R73, R74, R122) -/

/-- The clock after a minute arrival and the day change it raises. -/
def DayClock.afterMinute (c : DayClock) : DayClock :=
  if c.dayChangeRaised then c.minuteArrival.dayChange else c.minuteArrival

theorem minuteArrives_domain (s : State) :
    (minuteArrives s).domain = { s.domain with clock := s.domain.clock.afterMinute } := by
  unfold minuteArrives DayClock.afterMinute
  dsimp only
  by_cases day : s.domain.clock.dayChangeRaised = true
  · rw [if_pos day, if_pos day]
    split
    case h_1 => rfl
    case h_2 => exact takeTallyPoint_domain _ _
  · rw [if_neg day, if_neg day]
    split
    case h_1 => rfl
    case h_2 => exact takeTallyPoint_domain _ _

theorem minuteIf_domain (due : Bool) (s : State) :
    (minuteIf due s).domain =
      { s.domain with clock := if due then s.domain.clock.afterMinute else s.domain.clock } := by
  cases due with
  | false => rfl
  | true => exact minuteArrives_domain s

theorem runReplay_eq (s : State) : runReplay s = { s with
    journal := (runReplay s).journal, supply := (runReplay s).supply } := by
  unfold runReplay
  split
  case h_1 => rfl
  case h_2 =>
    dsimp only
    split
    · rfl
    · split <;> rfl

theorem askReplay_eq (s : State) : askReplay s = { s with
    journal := (askReplay s).journal, supply := (askReplay s).supply } := by
  unfold askReplay
  split
  · split
    · exact runReplay_eq s
    · rfl
  · rfl

/-- A reading in STARTING leaves the clock domain and the flash. -/
theorem startingReading_kept (v : Nat) (s : State) :
    (startingReading v s).domain = s.domain ∧ (startingReading v s).flash = s.flash := by
  unfold startingReading
  dsimp only
  split
  case isTrue => exact ⟨rfl, rfl⟩
  case isFalse =>
    split
    case isTrue =>
      unfold giveUpStart
      dsimp only
      split <;> exact ⟨rfl, rfl⟩
    case isFalse =>
      split
      case isTrue => exact ⟨rfl, rfl⟩
      case isFalse =>
        split
        case isTrue => rw [askReplay_eq]; exact ⟨rfl, rfl⟩
        case isFalse => exact ⟨rfl, rfl⟩

theorem beginHoldover_kept (s : State) :
    (beginHoldover s).domain = s.domain ∧ (beginHoldover s).flash = s.flash := by
  unfold beginHoldover
  dsimp only
  split
  · split
    · exact ⟨rfl, rfl⟩
    · exact ⟨submitEntry_domain _ _, submitEntry_flash _ _⟩
  · split <;> exact ⟨rfl, rfl⟩

theorem shed_kept (v : Nat) (s : State) : (shed v s).domain = s.domain ∧ (shed v s).flash = s.flash := by
  unfold shed
  dsimp only
  split
  · exact ⟨rfl, rfl⟩
  · simp

/-- A battery reading, whatever it brings about, leaves the clock domain and the flash. -/
theorem takeBatteryReading_kept (average : Nat) (s : State) :
    (takeBatteryReading average s).domain = s.domain ∧ (takeBatteryReading average s).flash = s.flash := by
  unfold takeBatteryReading
  dsimp only
  split
  · split
    · exact beginHoldover_kept _
    · exact shed_kept _ _
  · exact startingReading_kept _ _
  · exact ⟨rfl, rfl⟩
  · exact ⟨rfl, rfl⟩

@[simp] theorem takeBatteryReading_domain (average : Nat) (s : State) :
    (takeBatteryReading average s).domain = s.domain := (takeBatteryReading_kept average s).1

@[simp] theorem takeBatteryReading_flash (average : Nat) (s : State) :
    (takeBatteryReading average s).flash = s.flash := (takeBatteryReading_kept average s).2

theorem coreSecond_domain (x : Sample) (due : Bool) (s : State) :
    (coreSecond x due s).domain =
      { s.domain with clock := if due then s.domain.clock.afterMinute else s.domain.clock } := by
  unfold coreSecond
  dsimp only
  split
  · simp [minuteIf_domain]
  · split <;> simp [minuteIf_domain]
  · simp [minuteIf_domain]

@[simp] theorem coreSecond_flash (x : Sample) (due : Bool) (s : State) : (coreSecond x due s).flash = s.flash := by
  unfold coreSecond
  dsimp only
  split
  · simp
  · split <;> simp
  · simp

theorem sleepingSecond_powers (x : Sample) (due : Bool) (s : State) (strong : 1800 ≤ x.backup) :
    sleepingSecond x due s =
      if (minuteIf due s).levels.restartLevel ≤ batteryReading x.battery then corePowerUp (minuteIf due s)
      else minuteIf due s := if_neg (by rw [backupReadingOf]; omega)

theorem sleepingSecond_kept (x : Sample) (due : Bool) (s : State) (strong : 1800 ≤ x.backup) :
    (sleepingSecond x due s).domain =
        { s.domain with clock := if due then s.domain.clock.afterMinute else s.domain.clock }
      ∧ (sleepingSecond x due s).flash = s.flash := by
  rw [sleepingSecond_powers x due s strong]
  split
  · exact ⟨minuteIf_domain due s, minuteIf_flash due s⟩
  · exact ⟨minuteIf_domain due s, minuteIf_flash due s⟩

theorem measureBackup_domain (m : Nat) (s : State) :
    (measureBackup m s).domain = { s.domain with
      backupReading := backupReadingOf m, backup := nextBackupState (backupReadingOf m) s.domain.backup } := by
  simp [measureBackup]

theorem nextBackupState_held (m : Nat) (b : BackupState) :
    nextBackupState (backupReadingOf m) b = if m < 2400 then .weak else if 2500 ≤ m then .good else b := by
  have low : min m 5000 < 2400 ↔ m < 2400 := by omega
  have high : 2500 ≤ min m 5000 ↔ 2500 ≤ m := by omega
  simp only [nextBackupState, backupReadingOf, low, high]

theorem advanceSecond_clock (s : State) :
    (advanceSecond s).domain = { s.domain with
      clock := { s.domain.clock with second := if 59 ≤ s.domain.clock.second then 0 else s.domain.clock.second + 1 }
      penalty := s.domain.penalty.second } := rfl

/-- The part as a second reaches it, its second field advanced and the backup cell measured. -/
def secondBegins (x : Sample) (s : State) : State := measureBackup x.backup (advanceSecond s)

theorem secondArrives_powered (x : Sample) (s : State) (powered : s.domain.powered = true) :
    secondArrives x s =
      if s.supply.power = .off then sleepingSecond x (decide (59 ≤ s.domain.clock.second)) (secondBegins x s)
      else coreSecond x (decide (59 ≤ s.domain.clock.second)) (secondBegins x s) := if_pos powered

/-- The clock domain after a second that does not stop it. -/
def ClockDomain.afterSecond (x : Sample) (d : ClockDomain) : ClockDomain :=
  let c := { d.clock with second := if 59 ≤ d.clock.second then 0 else d.clock.second + 1 }
  { d with
    clock := if 59 ≤ d.clock.second then c.afterMinute else c
    penalty := d.penalty.second
    backupReading := backupReadingOf x.backup
    backup := nextBackupState (backupReadingOf x.backup) d.backup }

theorem secondArrives_kept (x : Sample) (s : State) (powered : s.domain.powered = true)
    (runs : s.supply.power ≠ .off ∨ 1800 ≤ x.backup) :
    (secondArrives x s).domain = s.domain.afterSecond x ∧ (secondArrives x s).flash = s.flash := by
  have begun : (secondBegins x s).flash = s.flash := by simp [secondBegins]
  rw [secondArrives_powered x s powered]
  split
  case isTrue off =>
    obtain ⟨domain, flash⟩ := sleepingSecond_kept x (decide (59 ≤ s.domain.clock.second)) (secondBegins x s)
      (runs.resolve_left (not_not.2 off))
    refine ⟨domain.trans ?_, flash.trans begun⟩
    simp only [secondBegins, measureBackup_domain, advanceSecond_clock, decide_eq_true_eq]
    rfl
  case isFalse =>
    refine ⟨(coreSecond_domain _ _ _).trans ?_, (coreSecond_flash _ _ _).trans begun⟩
    simp only [secondBegins, measureBackup_domain, advanceSecond_clock, decide_eq_true_eq]
    rfl

/-! ## Minutes (R74, R75, R80) -/

theorem afterMinute_notSet (c : DayClock) (h : c.timeSet = false) : c.afterMinute = c := by
  simp [DayClock.afterMinute, DayClock.dayChangeRaised, DayClock.advances, DayClock.minuteArrival, h]

theorem afterMinute_held (c : DayClock) (set : c.timeSet = true) (h : 0 < c.hold) :
    c.afterMinute = { c with hold := c.hold - 1 } := by
  simp [DayClock.afterMinute, DayClock.dayChangeRaised, DayClock.advances, DayClock.minuteArrival, set, h, h.ne']

theorem afterMinute_minute (c : DayClock) (set : c.timeSet = true) (free : c.hold = 0) (h : c.minute ≠ 1439) :
    c.afterMinute = { c with minute := c.minute + 1 } := by
  simp [DayClock.afterMinute, DayClock.dayChangeRaised, DayClock.advances, DayClock.minuteArrival, set, free, h]

theorem afterMinute_day (c : DayClock) (set : c.timeSet = true) (free : c.hold = 0) (last : c.minute = 1439)
    (h : c.day ≠ 65535) :
    c.afterMinute = { c with minute := 0, day := c.day + 1, anchorAge := min (c.anchorAge + 1) 65535 } := by
  simp [DayClock.afterMinute, DayClock.dayChangeRaised, DayClock.advances, DayClock.minuteArrival, DayClock.dayChange,
    set, free, last, h]

theorem afterMinute_end (c : DayClock) (set : c.timeSet = true) (free : c.hold = 0) (last : c.minute = 1439)
    (h : c.day = 65535) : c.afterMinute = c := by
  simp [DayClock.afterMinute, DayClock.dayChangeRaised, DayClock.advances, DayClock.minuteArrival, set, free, last, h]

/-- A minute arrival leaves the second, the source and the condition. -/
theorem afterMinute_kept (c : DayClock) :
    c.afterMinute.second = c.second ∧ c.afterMinute.source = c.source ∧ c.afterMinute.condition = c.condition := by
  have arrival : c.minuteArrival.second = c.second ∧ c.minuteArrival.source = c.source
      ∧ c.minuteArrival.condition = c.condition := by
    unfold DayClock.minuteArrival
    repeat' split
    all_goals exact ⟨rfl, rfl, rfl⟩
  unfold DayClock.afterMinute
  split
  · exact arrival
  · exact arrival

/-- Settles O27: the clock domain after a second, in every power state. -/
theorem secondsAndMinutesCount : Obligations.SecondsAndMinutesCount := by
  refine ⟨fun x s powered early runs => ?_, fun x s powered last runs => ?_⟩
  · obtain ⟨domain, flash⟩ := secondArrives_kept x s powered runs
    have notLast : ¬59 ≤ s.domain.clock.second := Nat.not_le.2 early
    have after : (finish .tokenFirst (secondArrives x s)).domain = s.domain.afterSecond x :=
      (finish_domain _ _).trans domain
    refine ⟨_, rfl, ?_⟩
    have pending := (afterEveryCommand (.secondEvent x) s _ rfl).1
    rw [after, finish_flash, flash]
    simp only [ClockDomain.afterSecond, if_neg notLast]
    exact ⟨trivial, rfl, powered, trivial, rfl, nextBackupState_held _ _, pending, trivial⟩
  · obtain ⟨domain, flash⟩ := secondArrives_kept x s powered runs
    have wraps : 59 ≤ s.domain.clock.second := last.ge
    have clock : (finish .tokenFirst (secondArrives x s)).domain.clock =
        DayClock.afterMinute { s.domain.clock with second := 0 } := by
      rw [finish_domain, domain, ClockDomain.afterSecond]
      simp only [if_pos wraps]
    obtain ⟨second, source, condition⟩ := afterMinute_kept { s.domain.clock with second := 0 }
    refine ⟨_, rfl, ?_⟩
    rw [clock]
    exact ⟨second, source, condition, fun notSet => afterMinute_notSet _ notSet,
      fun set held => afterMinute_held _ set held, fun set free early => afterMinute_minute _ set free early,
      fun set free last notEnd => afterMinute_day _ set free last notEnd,
      fun set free last ends => afterMinute_end _ set free last ends⟩

/-! ## The core asleep (R123, R127) -/

theorem levels_of_provisioning (s t : State) (h : s.provisioning = t.provisioning) : s.levels = t.levels := by
  simp only [State.levels, h]

/-- Settles O32: the end of a second with the core off. -/
theorem sleepingSeconds : Obligations.SleepingSeconds := by
  intro x s powered off
  have asleep : secondArrives x s =
      sleepingSecond x (decide (59 ≤ s.domain.clock.second)) (secondBegins x s) :=
    (secondArrives_powered x s powered).trans (if_pos off)
  have provisioning : (minuteIf (decide (59 ≤ s.domain.clock.second)) (secondBegins x s)).provisioning =
      s.provisioning := by simp [secondBegins, advanceSecond]
  have supply : (minuteIf (decide (59 ≤ s.domain.clock.second)) (secondBegins x s)).supply = s.supply := by
    simp [secondBegins]
  have levels := levels_of_provisioning _ _ provisioning
  refine ⟨fun weak => ?_, fun strong high => ?_, fun strong low => ?_⟩
  · have stops : secondArrives x s =
        { minuteIf (decide (59 ≤ s.domain.clock.second)) (secondBegins x s) with domain := .off } :=
      asleep.trans (if_pos (by rw [backupReadingOf]; omega))
    refine ⟨_, rfl, ?_⟩
    rw [finish_domain, finish_supply, stops]
    exact ⟨rfl, (congrArg Supply.power supply).trans off⟩
  · have wakes := sleepingSecond_powers x (decide (59 ≤ s.domain.clock.second)) (secondBegins x s) strong
    rw [levels, if_pos (show s.levels.restartLevel ≤ batteryReading x.battery from high)] at wakes
    obtain ⟨domain, -⟩ := secondArrives_kept x s powered (.inr strong)
    refine ⟨_, exec_settled (.secondEvent x) s _ _ rfl (asleep.trans wakes) (corePowerUp_settled _), ?_, rfl, rfl, rfl⟩
    rw [← wakes, ← asleep, domain]
    exact powered
  · have sleeps := sleepingSecond_powers x (decide (59 ≤ s.domain.clock.second)) (secondBegins x s) strong
    rw [levels, if_neg (show ¬s.levels.restartLevel ≤ batteryReading x.battery from Nat.not_le.2 low)] at sleeps
    obtain ⟨domain, -⟩ := secondArrives_kept x s powered (.inr strong)
    refine ⟨_, rfl, ?_, ?_⟩
    · rw [finish_domain, domain]
      exact powered
    · rw [finish_supply, asleep, sleeps, supply, off]

/-! ## Milliseconds (log entry 6) -/

theorem tick_eq (p : Port) : p.tick = { p with
    stepTimer := if p.state = .ramping ∧ 1 < p.stepTimer then p.stepTimer - 1 else p.stepTimer
    tripWait := if p.state = .tripWait ∧ 1 < p.tripWait then p.tripWait - 1 else p.tripWait
    onRun := if p.state = .on ∧ p.onRun < 9999 then p.onRun + 1 else p.onRun } := by
  unfold Port.tick
  cases p with
  | mk state _ _ _ _ _ _ _ _ _ _ _ => cases state <;> simp

theorem domainTick_rc (edge : Bool) (d : ClockDomain) (rc : d.clock.source = .rc) :
    d.tick edge = { d with
      crystalGap := if edge then 0 else min (d.crystalGap + 1) 4
      clock := { d.clock with qualification :=
        if edge = true ∨ d.crystalGap < 3 then min (d.clock.qualification + 1) 999 else 0 } } := by
  have open_ : gapAfter edge d.crystalGap < 4 ↔ edge = true ∨ d.crystalGap < 3 := by
    cases edge
    · simp only [gapAfter, Bool.false_eq_true, if_false, false_or]
      omega
    · simp [gapAfter]
  simp only [ClockDomain.tick, rc, qualificationAfter, open_]
  rfl

theorem domainTick_crystal (edge : Bool) (d : ClockDomain) (crystal : d.clock.source = .crystal) :
    d.tick edge = { d with crystalGap := if edge then 0 else min (d.crystalGap + 1) 3 } := by
  have gap : min (gapAfter edge d.crystalGap) 3 = if edge then 0 else min (d.crystalGap + 1) 3 := by
    cases edge
    · simp only [gapAfter, Bool.false_eq_true, if_false]
      omega
    · rfl
  simp only [ClockDomain.tick, crystal, gap]

theorem perPort_get_map {α β : Type} (f : α → β) (x : PerPort α) (i : Fin 4) : (x.map f).get i = f (x.get i) := by
  fin_cases i <;> rfl

theorem perPort_get_zip {α β γ : Type} (f : α → β → γ) (x : PerPort α) (y : PerPort β) (i : Fin 4) :
    (x.zip f y).get i = f (x.get i) (y.get i) := by
  fin_cases i <;> rfl

/-- Settles O28: a millisecond ticks the ports' timers and the watch on the crystal. -/
theorem millisecondsPass : Obligations.MillisecondsPass := by
  intro s empty
  have stepped : step s = .next (millisecond s) := by simp only [step, empty]
  have ports : (millisecond s).switches = (onPorts Port.tick s).switches := by
    unfold millisecond
    dsimp only
    split <;> rfl
  have domain : (millisecond s).domain =
      if s.domain.powered = true then s.domain.tick (Config.crystalEdge s.idleMilliseconds) else s.domain := by
    unfold millisecond
    simp only [onPorts_domain]
    split
    · rfl
    · rfl
  refine ⟨_, Config.crystalEdge s.idleMilliseconds, stepped, ?_, ?_, fun still => ?_, fun switching i => ?_,
    fun unpowered => ?_, fun powered rc => ?_, fun powered crystal => ?_⟩
  · unfold millisecond onPorts
    dsimp only
    split <;> split <;> rfl
  · rw [ports, onPorts]
    split <;> rfl
  · rw [ports, onPorts, if_neg (by rw [still]; decide)]
  · rw [ports, onPorts, if_pos switching]
    simp only [perPort_get_map]
    rw [tick_eq]
    exact ⟨rfl, rfl, rfl, rfl⟩
  · rw [domain, if_neg (by rw [unpowered]; decide)]
  · rw [domain, if_pos powered, domainTick_rc _ _ rc]
  · rw [domain, if_pos powered, domainTick_crystal _ _ crystal]

/-! ## The crystal and the penalty wait (R67, R77, R78) -/

/-- CLOCK_SOURCE raised after a change of the clock domain, at the end of an event. -/
theorem sourceRaised (i : Instr) (s : State) (event : State → State) (d : ClockDomain) (settled : Settled s)
    (run : exec i s = .next (finish .tokenFirst (event s))) (comes : event s = raise .clockSource { s with domain := d })
    (set : d.clock.timeSet = s.domain.clock.timeSet) :
    ∃ t, exec i s = .next t ∧ t = { s with domain := d, link := t.link } ∧ SourceRaised s t := by
  have units : UnitsSettled (raise .clockSource { s with domain := d }) := by
    simpa [UnitsSettled, set] using settled.1
  refine ⟨_, exec_unitsSettled i s _ _ run comes units, ?_, ?_, fun on => ?_, fun awake clear read => ?_,
    fun holdover => ?_, fun off => ?_⟩
  · rw [raise_eq]
  · exact (pump_replies _).trans (raise_replies _ _)
  · exact (pump_notices _).trans (raise_notices _ _ on)
  · intro free
    have queued : TxFrame.notice none ∈ (raise .clockSource { s with domain := d }).link.transmit := by
      rw [raise_awake _ _ (by exact awake), if_pos (by exact clear)]
      exact queueNotice_waits _
    have sends : (raise .clockSource { s with domain := d }).link.pump.transmit = [] :=
      pump_settled _ ⟨(pump_receiving _).trans ((raise_receiving _ _).trans read), free⟩
    obtain same | began := pump_transmit (raise .clockSource { s with domain := d }).link
    · rw [same] at sends
      exact absurd queued (sends ▸ List.not_mem_nil)
    · have noticed : (raise .clockSource { s with domain := d }).link.notices ≠ 0 := by
        rw [raise_notices _ _ (by rintro off; rw [show s.supply.power = .off from off] at awake; cases awake)]
        intro zero
        have bit := congrArg (fun v => v.getLsbD 5) zero
        simp [causeBit, NoticeCause.index] at bit
      obtain ⟨o, mem⟩ := beginSending_keeps_notice _ _ noticed none queued
      rw [← began, sends] at mem
      cases mem
  · rw [raise_holdover _ _ (by exact holdover)]
    have quiet : ({ s.link with notices := s.link.notices ||| causeBit .clockSource } : Link).pump =
        { s.link with notices := s.link.notices ||| causeBit .clockSource } := pump_of_settled _ settled.2
    exact quiet.trans (congrArg (fun l : Link => { s.link with notices := l.notices }) quiet.symm)
  · rw [raise_off _ _ (by exact off)]
    exact pump_of_settled _ settled.2

/-- Settles O34: the crystal's three commands and the end of a penalty wait. -/
theorem clockDomainEvents : Obligations.ClockDomainEvents := by
  refine ⟨fun s settled powered => ⟨fun rc => ⟨?_, ?_, ?_⟩, fun crystal => ⟨?_, ?_, ?_⟩⟩,
    fun s settled powered => ⟨fun last => ?_, fun notLast => ?_⟩⟩
  · refine sourceRaised .crystalQualified s crystalQualify _ settled rfl ?_ rfl
    exact if_pos (by simp [powered, rc])
  · exact exec_settled .crystalGap s (crystalFail s) s rfl (if_neg (by simp [rc])) settled
  · exact exec_settled .crystalQualificationReset s (qualificationReset s) _ rfl (if_pos (by simp [powered, rc])) settled
  · refine sourceRaised .crystalGap s crystalFail _ settled rfl ?_ rfl
    exact if_pos (by simp [powered, crystal])
  · exact exec_settled .crystalQualified s (crystalQualify s) s rfl (if_neg (by simp [crystal])) settled
  · exact exec_settled .crystalQualificationReset s (qualificationReset s) s rfl (if_neg (by simp [crystal])) settled
  · have ends : penaltyWaitEnds s = { s with domain.penalty := s.domain.penalty.second } :=
      if_pos (by simp [powered, last])
    rw [Penalty.second, last] at ends
    exact exec_settled .penaltyWaitEnd s _ _ rfl ends settled
  · exact exec_settled .penaltyWaitEnd s (penaltyWaitEnds s) s rfl (if_neg (by simp [notLast])) settled

end Sys2Proof.Machine
end

section
/-! A second in RUN or STARTING: the sample and the battery reading (O29, O33). -/

namespace Sys2Proof.Machine

/-! ## The causes in the notice set (R171) -/

theorem raise_bit (c : NoticeCause) (s : State) (i : Nat) :
    (raise c s).link.notices.getLsbD i =
      (s.link.notices.getLsbD i || decide (s.supply.power ≠ .off ∧ i = c.index)) := by
  by_cases off : s.supply.power = .off
  · rw [raise_off c s off]
    simp [off]
  · rw [raise_notices c s off, BitVec.getLsbD_or, causeBit_getLsbD]
    simp [off]

theorem raise_otherBit (c : NoticeCause) (s : State) (i : Nat) (other : i ≠ c.index) :
    (raise c s).link.notices.getLsbD i = s.link.notices.getLsbD i := by
  rw [raise_bit]
  simp [other]

theorem raiseIf_bit (b : Bool) (c : NoticeCause) (s : State) (i : Nat) :
    (raiseIf b c s).link.notices.getLsbD i =
      (s.link.notices.getLsbD i || decide (b = true ∧ s.supply.power ≠ .off ∧ i = c.index)) := by
  cases b with
  | false => simp [raiseIf]
  | true =>
    rw [raiseIf, if_pos rfl, raise_bit]
    simp

theorem raiseIf_otherBit (b : Bool) (c : NoticeCause) (s : State) (i : Nat) (other : i ≠ c.index) :
    (raiseIf b c s).link.notices.getLsbD i = s.link.notices.getLsbD i := by
  rw [raiseIf_bit]
  simp [other]

theorem carryGoOn_notices (c : CarryService) (s : State) : (carryGoOn c s).link.notices = s.link.notices := by
  unfold carryGoOn
  split
  · simp [requestItemCheck]
  · exact completeReply_notices _ _

theorem takeStoreRequest_notices (req : Request) (s : State) :
    (takeStoreRequest req s).link.notices = s.link.notices := by
  unfold takeStoreRequest
  split
  · unfold takeCarry
    split
    · exact completeReply_notices _ _
    · exact carryGoOn_notices _ _
  · unfold takeHandoff
    split <;> exact completeReply_notices _ _
  · unfold takeReceipts
    dsimp only
    split <;> exact completeReply_notices _ _

theorem serveStore_notices (n : Nat) (s : State) : (serveStore n s).link.notices = s.link.notices := by
  induction n generalizing s with
  | zero => rfl
  | succ n ih =>
    unfold serveStore
    split
    case isTrue =>
      split
      case h_1 => rfl
      case h_2 => exact (ih _).trans (takeStoreRequest_notices _ _)
    case isFalse => rfl

theorem settleToken_bit (r : TokenResult) (x : List Byte) (s : State) (i : Nat) (other : i ≠ 2) :
    (settleToken r x s).link.notices.getLsbD i = s.link.notices.getLsbD i := by
  unfold settleToken
  split
  · rfl
  · split
    · exact congrArg (·.getLsbD i) (completeReply_notices _ _)
    · exact raise_otherBit _ _ i other

theorem serveTokens_bit (n : Nat) (s : State) (i : Nat) (other : i ≠ 2) :
    (serveTokens n s).link.notices.getLsbD i = s.link.notices.getLsbD i := by
  induction n generalizing s with
  | zero => rfl
  | succ n ih =>
    unfold serveTokens
    split
    case isTrue =>
      split
      case h_1 => rfl
      case h_2 =>
        split
        case h_1 => exact (ih _).trans (settleToken_bit _ _ s i other)
        case h_2 => rw [requestDigest_link]
    case isFalse => rfl

/-- Of the causes, the end of an event can raise only TOKEN_DONE (R64). -/
theorem finish_bit (o : DigestOrder) (s : State) (i : Nat) (other : i ≠ 2) :
    (finish o s).link.notices.getLsbD i = s.link.notices.getLsbD i := by
  have units : (settleUnits o s).link.notices.getLsbD i = s.link.notices.getLsbD i := by
    cases o
    · simp only [settleUnits, settleStore, settleTokens, serveStore_notices, serveTokens_bit _ _ i other]
    · simp only [settleUnits, settleStore, settleTokens, serveStore_notices, serveTokens_bit _ _ i other]
  simp only [finish, pump_notices, journalGoOn_link, units]

/-! ## The sample (R91 to R100) -/

theorem judge_kept (reading : Nat) (driven : Bool) (m : MeterPort) :
    (m.judge reading driven).count = m.count ∧ (m.judge reading driven).residue = m.residue := by
  unfold MeterPort.judge
  repeat' split
  all_goals exact ⟨rfl, rfl⟩

theorem accumulate_kept (product : Nat) (m : MeterPort) :
    (m.accumulate product).sense = m.sense ∧ (m.accumulate product).senseRun = m.senseRun := by
  unfold MeterPort.accumulate
  dsimp only
  repeat' split
  all_goals exact ⟨rfl, rfl⟩

theorem accumulate_held (product : Nat) (m : MeterPort) (top : m.count = 4294967295) (empty : m.residue = 0) :
    (m.accumulate product).count = 4294967295 ∧ (m.accumulate product).residue = 0 := by
  rw [MeterPort.accumulate, if_pos ⟨top, empty⟩]
  exact ⟨top, empty⟩

theorem accumulate_top (product : Nat) (m : MeterPort)
    (above : 4294967295 < m.count + (m.residue + product) / 3600000) :
    (m.accumulate product).count = 4294967295 ∧ (m.accumulate product).residue = 0 := by
  by_cases held : m.count = 4294967295 ∧ m.residue = 0
  · exact accumulate_held product m held.1 held.2
  · have topped : m.accumulate product = { m with count := 4294967295, residue := 0 } := by
      unfold MeterPort.accumulate countTop
      rw [if_neg held]
      exact if_pos above
    rw [topped]
    exact ⟨rfl, rfl⟩

theorem accumulate_counted (product : Nat) (m : MeterPort)
    (fits : m.count + (m.residue + product) / 3600000 ≤ 4294967295)
    (counts : ¬(m.count = 4294967295 ∧ m.residue = 0)) :
    (m.accumulate product).count * 3600000 + (m.accumulate product).residue
        = m.count * 3600000 + m.residue + product
      ∧ (m.accumulate product).residue < 3600000 := by
  have counted : m.accumulate product = { m with
      count := m.count + (m.residue + product) / 3600000, residue := (m.residue + product) % 3600000 } := by
    unfold MeterPort.accumulate countTop
    rw [if_neg counts]
    exact if_neg (Nat.not_lt.2 fits)
  rw [counted]
  dsimp only
  omega

theorem judge_sense (reading : Nat) (driven : Bool) (m : MeterPort) :
    (m.judge reading driven).sense = match m.sense with
      | .clear => if 100 ≤ reading ∧ driven = false ∧ 2 ≤ m.senseRun then .fault else .clear
      | .fault => if 100 ≤ reading then .fault else .clear := by
  unfold MeterPort.judge suspect
  cases sense : m.sense with
  | clear =>
    have enough : 2 ≤ m.senseRun ↔ ¬m.senseRun < 2 := Nat.not_lt.symm
    by_cases high : 100 ≤ reading <;> by_cases run : m.senseRun < 2 <;> cases driven <;> simp [high, run, enough]
  | fault => by_cases high : 100 ≤ reading <;> simp [high]

theorem judge_senseRun (reading : Nat) (driven : Bool) (m : MeterPort) :
    (m.judge reading driven).senseRun =
      if m.sense = .clear ∧ 100 ≤ reading ∧ driven = false ∧ m.senseRun < 2 then m.senseRun + 1 else 0 := by
  unfold MeterPort.judge suspect
  cases sense : m.sense with
  | clear => by_cases high : 100 ≤ reading <;> by_cases run : m.senseRun < 2 <;> cases driven <;> simp [high, run]
  | fault => by_cases high : 100 ≤ reading <;> simp [high]

theorem sample_fields (voltage average : Nat) (driven : Bool) (m : MeterPort) :
    (m.sample voltage average driven).lastCurrent = conditionCurrent average
      ∧ (m.sample voltage average driven).count = (m.accumulate (voltage * conditionCurrent average)).count
      ∧ (m.sample voltage average driven).residue = (m.accumulate (voltage * conditionCurrent average)).residue
      ∧ (m.sample voltage average driven).sense = (match m.sense with
          | .clear =>
            if 100 ≤ conditionCurrent average ∧ driven = false ∧ 2 ≤ m.senseRun then .fault else .clear
          | .fault => if 100 ≤ conditionCurrent average then .fault else .clear)
      ∧ (m.sample voltage average driven).senseRun =
          if m.sense = .clear ∧ 100 ≤ conditionCurrent average ∧ driven = false ∧ m.senseRun < 2
          then m.senseRun + 1 else 0 := by
  obtain ⟨count, residue⟩ := judge_kept (conditionCurrent average) driven
    (m.accumulate (voltage * conditionCurrent average))
  obtain ⟨sense, senseRun⟩ := accumulate_kept (voltage * conditionCurrent average) m
  refine ⟨rfl, count, residue, ?_, ?_⟩
  · exact (judge_sense _ _ _).trans (by rw [sense, senseRun])
  · exact (judge_senseRun _ _ _).trans (by rw [sense, senseRun])

theorem perPort_any (x : PerPort Bool) : (x.p0 || x.p1 || x.p2 || x.p3) = decide (∃ j : Fin 4, x.get j = true) := by
  rw [Bool.eq_iff_iff]
  simp only [Bool.or_eq_true, decide_eq_true_eq]
  constructor
  · rintro (((h | h) | h) | h)
    · exact ⟨0, h⟩
    · exact ⟨1, h⟩
    · exact ⟨2, h⟩
    · exact ⟨3, h⟩
  · rintro ⟨j, h⟩
    fin_cases j
    · exact .inl (.inl (.inl h))
    · exact .inl (.inl (.inr h))
    · exact .inl (.inr h)
    · exact .inr h

/-- The ports of the meter after a sample. -/
theorem takeSample_port (battery : Nat) (currents : PerPort Nat) (s : State) (on : s.meter.sampling = true)
    (i : Fin 4) :
    (takeSample battery currents s).meter.ports.get i =
      (s.meter.ports.get i).sample (batteryReading battery) (currents.get i) (s.switches.ports.get i).driven := by
  rw [takeSample, if_pos on]
  simp only [raiseIf_meter, perPort_get_zip, perPort_get_map]

theorem takeSample_voltage (battery : Nat) (currents : PerPort Nat) (s : State) (on : s.meter.sampling = true) :
    (takeSample battery currents s).meter.lastVoltage = batteryReading battery := by
  rw [takeSample, if_pos on]
  simp only [raiseIf_meter]

/-- SENSE_FAULT is raised where a sample takes a port into FAULT (R99). -/
theorem takeSample_senseFault (battery : Nat) (currents : PerPort Nat) (s : State) (on : s.meter.sampling = true)
    (powered : s.supply.power ≠ .off) :
    (takeSample battery currents s).link.notices.getLsbD 9 = (s.link.notices.getLsbD 9 || decide (∃ j : Fin 4,
      (s.meter.ports.get j).sense = .clear ∧ ((takeSample battery currents s).meter.ports.get j).sense = .fault)) := by
  simp only [takeSample_port battery currents s on]
  rw [takeSample, if_pos on]
  simp only [raiseIf_bit, perPort_any, perPort_get_zip, perPort_get_map, entersFault]
  simp [powered, NoticeCause.index]

/-! ## A battery reading in RUN (R120, R121) -/

/-- The shed level a reading brings (R121). -/
def State.nextShedLevel (v : Nat) (s : State) : Nat :=
  shedLevelOf s.thresholds s.levels.hysteresis s.supply.shedLevel v

theorem shed_same (v : Nat) (s : State) (same : s.nextShedLevel v = s.supply.shedLevel) : shed v s = s := if_pos same

theorem shed_changed (v : Nat) (s : State) (changed : s.nextShedLevel v ≠ s.supply.shedLevel) :
    shed v s = raise .shedLevel (giveShedLevel { s with supply.shedLevel := s.nextShedLevel v }) := if_neg changed

theorem shed_supply (v : Nat) (s : State) :
    (shed v s).supply = { s.supply with shedLevel := s.nextShedLevel v } := by
  by_cases same : s.nextShedLevel v = s.supply.shedLevel
  · rw [shed_same v s same, same]
  · rw [shed_changed v s same]
    simp

@[simp] theorem shed_meter (v : Nat) (s : State) : (shed v s).meter = s.meter := by
  unfold shed
  dsimp only
  split <;> simp

@[simp] theorem shed_account (v : Nat) (s : State) : (shed v s).account = s.account := by
  unfold shed
  dsimp only
  split <;> simp

@[simp] theorem shed_relay (v : Nat) (s : State) : (shed v s).relay = s.relay := by
  unfold shed
  dsimp only
  split <;> simp

theorem shed_otherBit (v : Nat) (s : State) (i : Nat) (other : i ≠ 6) :
    (shed v s).link.notices.getLsbD i = s.link.notices.getLsbD i := by
  unfold shed
  dsimp only
  split
  · rfl
  · rw [raise_otherBit .shedLevel _ i other, giveShedLevel_link]

theorem giveShedLevel_port (s : State) (i : Fin 4) (switching : s.switches.switching = true) :
    (giveShedLevel s).switches.ports.get i = (s.switches.ports.get i).giveShedLevel s.supply.shedLevel
      (s.provisioning.settings.shedRanks.get i) := by
  rw [giveShedLevel, if_pos switching]
  exact perPort_get_zip _ _ _ i

theorem giveShedLevel_switching (s : State) :
    (giveShedLevel s).switches.switching = s.switches.switching := by
  unfold giveShedLevel
  split <;> rfl

/-- A shed level given leaves the port's account cap and its answer for the second. -/
theorem giveShedLevel_kept (level rank : Nat) (p : Port) :
    (p.giveShedLevel level rank).accountCap = p.accountCap ∧ (p.giveShedLevel level rank).driven = p.driven
      ∧ (p.giveShedLevel level rank).shedCap = if rank ≤ level then 0 else 1000 := by
  obtain ⟨-, -, accountCap, shedCap, -, -, driven⟩ :=
    retarget_kept { p with shedCap := if rank ≤ level then 0 else 1000 }
  exact ⟨accountCap, driven, shedCap⟩

theorem shed_port_kept (v : Nat) (s : State) (i : Fin 4) :
    ((shed v s).switches.ports.get i).accountCap = (s.switches.ports.get i).accountCap
      ∧ ((shed v s).switches.ports.get i).driven = (s.switches.ports.get i).driven := by
  by_cases same : s.nextShedLevel v = s.supply.shedLevel
  · rw [shed_same v s same]
    exact ⟨rfl, rfl⟩
  · rw [shed_changed v s same, raise_switches]
    by_cases switching : s.switches.switching = true
    · rw [giveShedLevel_port { s with supply.shedLevel := s.nextShedLevel v } i switching]
      exact ⟨(giveShedLevel_kept _ _ _).1, (giveShedLevel_kept _ _ _).2.1⟩
    · rw [giveShedLevel, if_neg switching]
      exact ⟨rfl, rfl⟩

/-- A reading in RUN at or above cutoff is recorded and sheds (R120). -/
theorem takeBatteryReading_run (average : Nat) (s : State) (run : s.supply.power = .run)
    (high : s.levels.cutoff ≤ batteryReading average) :
    takeBatteryReading average s =
      shed (batteryReading average) { s with supply.battery := batteryReading average } := by
  simp only [takeBatteryReading, run]
  exact if_neg (Nat.not_lt.2 high)

/-- With no minute arriving the sample, the driven answers and the battery reading stand in that order. -/
theorem coreSecond_noMinute (x : Sample) (s : State) :
    coreSecond x false s =
      takeBatteryReading x.battery (reportDriven (takeSample x.battery x.currents s)) := by
  unfold coreSecond
  dsimp only
  split
  · rfl
  · split <;> rfl
  · rfl

@[simp] theorem secondBegins_provisioning (x : Sample) (s : State) :
    (secondBegins x s).provisioning = s.provisioning := measureBackup_provisioning _ _
@[simp] theorem secondBegins_supply (x : Sample) (s : State) : (secondBegins x s).supply = s.supply :=
  measureBackup_supply _ _
@[simp] theorem secondBegins_meter (x : Sample) (s : State) : (secondBegins x s).meter = s.meter :=
  measureBackup_meter _ _
@[simp] theorem secondBegins_switches (x : Sample) (s : State) : (secondBegins x s).switches = s.switches :=
  measureBackup_switches _ _
@[simp] theorem secondBegins_account (x : Sample) (s : State) : (secondBegins x s).account = s.account :=
  measureBackup_account _ _
@[simp] theorem secondBegins_journal (x : Sample) (s : State) : (secondBegins x s).journal = s.journal :=
  measureBackup_journal _ _
@[simp] theorem secondBegins_tokens (x : Sample) (s : State) : (secondBegins x s).tokens = s.tokens :=
  measureBackup_tokens _ _
@[simp] theorem secondBegins_relay (x : Sample) (s : State) : (secondBegins x s).relay = s.relay :=
  measureBackup_relay _ _
@[simp] theorem secondBegins_flash (x : Sample) (s : State) : (secondBegins x s).flash = s.flash :=
  measureBackup_flash _ _

theorem secondBegins_bit (x : Sample) (s : State) (i : Nat) (other : i ≠ 12) :
    (secondBegins x s).link.notices.getLsbD i = s.link.notices.getLsbD i := by
  unfold secondBegins measureBackup
  exact raiseIf_otherBit _ _ _ i other

/-- The part sampled, before the battery reading is acted on. -/
def sampled (x : Sample) (s : State) : State := reportDriven (takeSample x.battery x.currents (secondBegins x s))

theorem secondArrives_early (x : Sample) (s : State) (powered : s.domain.powered = true)
    (early : s.domain.clock.second < 59) (on : s.supply.power ≠ .off) :
    secondArrives x s = takeBatteryReading x.battery (sampled x s) := by
  rw [secondArrives_powered x s powered, if_neg on, decide_eq_false (Nat.not_le.2 early), coreSecond_noMinute]
  rfl

@[simp] theorem sampled_provisioning (x : Sample) (s : State) : (sampled x s).provisioning = s.provisioning := by
  simp [sampled]
@[simp] theorem sampled_supply (x : Sample) (s : State) : (sampled x s).supply = s.supply := by simp [sampled]
@[simp] theorem sampled_account (x : Sample) (s : State) : (sampled x s).account = s.account := by simp [sampled]
@[simp] theorem sampled_journal (x : Sample) (s : State) : (sampled x s).journal = s.journal := by simp [sampled]
@[simp] theorem sampled_tokens (x : Sample) (s : State) : (sampled x s).tokens = s.tokens := by simp [sampled]
@[simp] theorem sampled_relay (x : Sample) (s : State) : (sampled x s).relay = s.relay := by simp [sampled]
@[simp] theorem sampled_flash (x : Sample) (s : State) : (sampled x s).flash = s.flash := by simp [sampled]

theorem sampled_switching (x : Sample) (s : State) : (sampled x s).switches.switching = s.switches.switching := by
  unfold sampled reportDriven onPorts
  split <;> simp

theorem sampled_port (x : Sample) (s : State) (i : Fin 4) (switching : s.switches.switching = true) :
    (sampled x s).switches.ports.get i = (s.switches.ports.get i).newSecond := by
  rw [sampled, reportDriven, onPorts, if_pos (by simpa using switching)]
  simp [perPort_get_map]

theorem sampled_levels (x : Sample) (s : State) : (sampled x s).levels = s.levels :=
  levels_of_provisioning _ _ (sampled_provisioning x s)

/-- Settles O29: the sample and the driven answers of a second in RUN. -/
theorem secondsAreSampled : Obligations.SecondsAreSampled := by
  intro x s i powered early run sampling high
  have on : s.supply.power ≠ .off := by rw [run]; decide
  have reads : secondArrives x s = shed (batteryReading x.battery)
      { sampled x s with supply.battery := batteryReading x.battery } := by
    rw [secondArrives_early x s powered early on, takeBatteryReading_run x.battery (sampled x s)
      (by simpa using run) (by rw [sampled_levels]; exact high)]
  have meter : (finish .tokenFirst (secondArrives x s)).meter =
      (takeSample x.battery x.currents (secondBegins x s)).meter := by
    rw [finish_meter, reads, shed_meter]
    exact reportDriven_meter _
  have port : ∀ j, (finish .tokenFirst (secondArrives x s)).meter.ports.get j = (s.meter.ports.get j).sample
      (batteryReading x.battery) (x.currents.get j) (s.switches.ports.get j).driven := by
    intro j
    rw [meter, takeSample_port x.battery x.currents (secondBegins x s) (by simpa using sampling) j]
    simp
  obtain ⟨lastCurrent, count, residue, sense, senseRun⟩ := sample_fields (batteryReading x.battery)
    (x.currents.get i) (s.switches.ports.get i).driven (s.meter.ports.get i)
  refine ⟨_, rfl, ?_, ?_, ?_, ?_, ?_, ?_, ?_, ?_, ?_, fun switching => ?_, ?_⟩
  · rw [meter]
    exact takeSample_voltage x.battery x.currents (secondBegins x s) (by simpa using sampling)
  · rw [finish_supply, reads, shed_supply]
    rfl
  · rw [port i]
    exact lastCurrent
  · rw [port i, lastCurrent, count, residue]
    exact accumulate_counted _ _
  · rw [port i, lastCurrent, count, residue]
    exact accumulate_top _ _
  · rw [port i, count, residue]
    exact accumulate_held _ _
  · rw [port i, lastCurrent]
    exact sense
  · rw [port i, lastCurrent]
    exact senseRun
  · have faults := takeSample_senseFault x.battery x.currents (secondBegins x s) (by simpa using sampling)
      (by simpa using on)
    rw [secondBegins_bit x s 9 (by decide), secondBegins_meter] at faults
    rw [finish_bit _ _ 9 (by decide), meter, reads, shed_otherBit _ _ 9 (by decide), ← faults]
    exact congrArg (fun l : Link => l.notices.getLsbD 9) (reportDriven_link _)
  · rw [finish_switches, reads, (shed_port_kept _ _ i).2]
    exact congrArg Port.driven (sampled_port x s i switching)
  · rw [finish_account, reads, shed_account]
    exact congrArg AccountBlock.acct (sampled_account x s)

end Sys2Proof.Machine
end

section
/-! Battery readings acted on, tally points, and the beginning of holdover (O30, O31, O33). -/

namespace Sys2Proof.Machine

/-! ## The shed level (R106, R121) -/

theorem belowCount_cons (f : Nat) (fs : List Nat) (v : Nat) :
    belowCount (f :: fs) v = (if v < f then 1 else 0) + belowCount fs v := by
  unfold belowCount
  by_cases below : v < f <;> simp [below, Nat.add_comm]

/-- The two counts of the shed level, threshold by threshold. -/
theorem shedLevelOf_three (f1 f2 f3 h level v : Nat) :
    shedLevelOf [f1, f2, f3] h level v = max
      ((if v < f1 then 1 else 0) + (if v < f2 then 1 else 0) + (if v < f3 then 1 else 0))
      ((if 1 ≤ level ∧ v < f1 + h then 1 else 0) + (if 2 ≤ level ∧ v < f2 + h then 1 else 0)
        + (if 3 ≤ level ∧ v < f3 + h then 1 else 0)) := by
  have none : belowCount [] v = 0 := rfl
  unfold shedLevelOf
  match level with
  | 0 => simp [belowCount_cons, none, Nat.add_assoc]
  | 1 => simp [belowCount_cons, none, Nat.add_assoc]
  | 2 => simp [belowCount_cons, none, Nat.add_assoc]
  | n + 3 => simp [belowCount_cons, none, Nat.add_assoc]

theorem nextShedLevel_provisioned (v : Nat) (s : State) (provisioned : s.provisioning.provisioned = true) :
    s.nextShedLevel v = shedLevelOf
      [s.provisioning.settings.f1, s.provisioning.settings.f2, s.provisioning.settings.f3]
      s.provisioning.settings.hysteresis s.supply.shedLevel v := by
  simp only [State.nextShedLevel, State.thresholds, State.levels, provisioned, if_true]

theorem nextShedLevel_unprovisioned (v : Nat) (s : State) (unprovisioned : s.provisioning.provisioned = false) :
    s.nextShedLevel v = 0 := by
  simp [State.nextShedLevel, State.thresholds, unprovisioned, shedLevelOf, belowCount]

/-- A port that keeps what its state promises and has target 0 has duty 0. -/
theorem duty_of_target_zero (p : Port) (ok : PortOk p) (target : p.target = 0) : p.duty = 0 := by
  obtain ⟨-, -, -, idle, barred, ramping, on, tripWait, latched⟩ := ok
  cases state : p.state with
  | idle => exact (idle state).2
  | barred => exact (barred state).2.2
  | ramping => exact absurd (ramping state).2 (by rw [target]; exact Nat.not_lt_zero _)
  | on => exact absurd (on state).2.2 (by rw [target]; exact Nat.lt_irrefl 0)
  | tripWait => exact (tripWait state).2
  | latched => exact latched state

theorem giveShedLevel_sheds (level rank : Nat) (p : Port) (ok : PortOk p) (shed : rank ≤ level) :
    (p.giveShedLevel level rank).duty = 0 := by
  refine duty_of_target_zero _ (giveShedLevel_ok level rank p ok) ?_
  obtain ⟨-, -, -, -, target, -⟩ := retarget_kept { p with shedCap := if rank ≤ level then 0 else 1000 }
  refine target.trans ?_
  simp [Port.wanted, shed]

theorem portsOk_get (s : State) (ok : PortsOk s) (switching : s.switches.switching = true) (i : Fin 4) :
    PortOk (s.switches.ports.get i) := by
  obtain ⟨p0, p1, p2, p3⟩ := ok switching
  fin_cases i
  · exact p0
  · exact p1
  · exact p2
  · exact p3

/-! ## Readings in STARTING (R129) -/

theorem runReplay_asked (s : State) : (runReplay s).supply.replay ≠ .notAsked := by
  unfold runReplay
  split
  · exact nofun
  · dsimp only
    split
    · exact nofun
    · split
      · exact nofun
      · exact nofun

/-- What replay reports depends on the flash alone. -/
theorem runReplay_replay (s t : State) (flash : s.flash = t.flash) :
    (runReplay s).supply.replay = (runReplay t).supply.replay := by
  unfold runReplay
  rw [flash]
  split
  · rfl
  · dsimp only
    split
    · rfl
    · split <;> rfl

theorem runReplay_supply (s : State) :
    (runReplay s).supply = { s.supply with replay := (runReplay s).supply.replay } := by
  unfold runReplay
  split
  · rfl
  · dsimp only
    split
    · rfl
    · split <;> rfl

theorem takeBatteryReading_starting (average : Nat) (s : State) (starting : s.supply.power = .starting) :
    takeBatteryReading average s =
      startingReading (batteryReading average) { s with supply.battery := batteryReading average } := by
  simp only [takeBatteryReading, starting]

theorem startingReading_high (v : Nat) (s : State) (goes : s.supply.givenUp = false)
    (cutoff : s.levels.cutoff ≤ v) (high : s.levels.restartLevel ≤ v) :
    startingReading v s =
      if min (s.supply.filter + 1) 60 = 60 then askReplay { s with supply.filter := min (s.supply.filter + 1) 60 }
      else { s with supply.filter := min (s.supply.filter + 1) 60 } := by
  rw [startingReading, if_neg (by rw [goes]; decide), if_neg (Nat.not_lt.2 cutoff), if_neg (Nat.not_lt.2 high)]

theorem startingReading_middle (v : Nat) (s : State) (goes : s.supply.givenUp = false)
    (cutoff : s.levels.cutoff ≤ v) (low : v < s.levels.restartLevel) :
    startingReading v s = { s with supply.filter := 0 } := by
  rw [startingReading, if_neg (by rw [goes]; decide), if_neg (Nat.not_lt.2 cutoff), if_pos low]

theorem startingReading_low (v : Nat) (s : State) (goes : s.supply.givenUp = false) (low : v < s.levels.cutoff) :
    startingReading v s = giveUpStart s := by
  rw [startingReading, if_neg (by rw [goes]; decide), if_pos low]

theorem askReplay_supply (s : State) : (askReplay s).supply = { s.supply with replay :=
    if s.supply.replay = .notAsked then
      if s.provisioning.condition = .valid then (runReplay s).supply.replay else .done none
    else s.supply.replay } := by
  unfold askReplay
  split
  case isTrue =>
    split
    case isTrue => exact runReplay_supply s
    case isFalse => rfl
  case isFalse => rfl

/-- Outside RUN the end of an event leaves the Token Unit. -/
theorem finish_tokens_notRun (o : DigestOrder) (s : State) (notRun : s.supply.power ≠ .run) :
    (finish o s).tokens = s.tokens := by
  have idle : ∀ t : State, t.supply = s.supply → settleTokens t = t := fun t same =>
    serveTokens_of_settled _ _ fun ⟨run, _⟩ => absurd (same ▸ run) notRun
  cases o
  · simp only [finish, settleUnits, journalGoOn_tokens, idle s rfl, settleStore, serveStore_tokens]
  · simp only [finish, settleUnits, journalGoOn_tokens, idle (settleStore s) (serveStore_supply _ _)]
    exact serveStore_tokens _ _

theorem journalGoOn_busy (s : State) (busy : s.journal.op ≠ .none) : journalGoOn s = s :=
  if_pos (.inr (.inr busy))

/-- The end of an event leaves the journal while an operation is in progress. -/
theorem finish_journal_busy (o : DigestOrder) (s : State) (busy : s.journal.op ≠ .none) :
    (finish o s).journal = s.journal := by
  have units : (settleUnits o s).journal = s.journal := settleUnits_journal o s
  simp only [finish, journalGoOn_busy (settleUnits o s) (by rw [units]; exact busy), units]

theorem restartLevel_ge (f : Settings) (v : Nat) (h : f.restartLevel ≤ v) : f.cutoff ≤ v :=
  (Nat.le_add_right _ _).trans h

theorem takeSample_otherBit (battery : Nat) (currents : PerPort Nat) (s : State) (i : Nat) (other : i ≠ 9) :
    (takeSample battery currents s).link.notices.getLsbD i = s.link.notices.getLsbD i := by
  unfold takeSample
  split
  · rw [raiseIf_otherBit _ .senseFault _ i other]
  · rfl

theorem sampled_otherBit (x : Sample) (s : State) (i : Nat) (notFault : i ≠ 9) (notBackup : i ≠ 12) :
    (sampled x s).link.notices.getLsbD i = s.link.notices.getLsbD i := by
  rw [sampled, reportDriven_link, takeSample_otherBit _ _ _ i notFault, secondBegins_bit x s i notBackup]

/-- The part sampled, with the battery reading recorded and not yet acted on. -/
def recorded (x : Sample) (s : State) : State :=
  { sampled x s with supply.battery := batteryReading x.battery }

theorem recorded_supply (x : Sample) (s : State) :
    (recorded x s).supply = { s.supply with battery := batteryReading x.battery } :=
  congrArg (fun y : Supply => { y with battery := batteryReading x.battery }) (sampled_supply x s)

theorem recorded_levels (x : Sample) (s : State) : (recorded x s).levels = s.levels :=
  levels_of_provisioning _ _ (sampled_provisioning x s)

theorem recorded_journal (x : Sample) (s : State) : (recorded x s).journal = s.journal := sampled_journal x s

theorem recorded_switching (x : Sample) (s : State) : (recorded x s).switches.switching = s.switches.switching :=
  sampled_switching x s

theorem recorded_port (x : Sample) (s : State) (i : Fin 4) (switching : s.switches.switching = true) :
    (recorded x s).switches.ports.get i = (s.switches.ports.get i).newSecond := sampled_port x s i switching

theorem shed_port_changed (v : Nat) (s : State) (changed : s.nextShedLevel v ≠ s.supply.shedLevel) (i : Fin 4)
    (switching : s.switches.switching = true) :
    (shed v s).switches.ports.get i = (s.switches.ports.get i).giveShedLevel (s.nextShedLevel v)
      (s.provisioning.settings.shedRanks.get i) := by
  rw [shed_changed v s changed, raise_switches]
  exact giveShedLevel_port { s with supply.shedLevel := s.nextShedLevel v } i switching

theorem recorded_nextShedLevel (x : Sample) (s : State) (v : Nat) :
    (recorded x s).nextShedLevel v = s.nextShedLevel v := by
  have provisioning : (recorded x s).provisioning = s.provisioning := sampled_provisioning x s
  simp only [State.nextShedLevel, State.thresholds, recorded_levels, recorded_supply, provisioning]

theorem secondArrives_run (x : Sample) (s : State) (powered : s.domain.powered = true)
    (early : s.domain.clock.second < 59) (run : s.supply.power = .run)
    (high : s.levels.cutoff ≤ batteryReading x.battery) :
    secondArrives x s = shed (batteryReading x.battery) (recorded x s) := by
  rw [secondArrives_early x s powered early (by rw [run]; decide), takeBatteryReading_run x.battery (sampled x s)
    (by rw [sampled_supply, run]) (by rw [sampled_levels]; exact high)]
  rfl

theorem secondArrives_starting (x : Sample) (s : State) (powered : s.domain.powered = true)
    (early : s.domain.clock.second < 59) (starting : s.supply.power = .starting) :
    secondArrives x s = startingReading (batteryReading x.battery) (recorded x s) := by
  rw [secondArrives_early x s powered early (by rw [starting]; decide), takeBatteryReading_starting x.battery
    (sampled x s) (by rw [sampled_supply, starting])]
  rfl

theorem shed_shedLevelBit (v : Nat) (s : State) (on : s.supply.power ≠ .off) :
    (shed v s).link.notices.getLsbD 6 =
      (s.link.notices.getLsbD 6 || decide (s.nextShedLevel v ≠ s.supply.shedLevel)) := by
  by_cases same : s.nextShedLevel v = s.supply.shedLevel
  · rw [shed_same v s same]
    simp [same]
  · rw [shed_changed v s same, raise_bit, giveShedLevel_link, giveShedLevel_supply]
    simp [on, same, NoticeCause.index]

/-- The parts of a start given up (R129). -/
theorem giveUpStart_idle (s : State) (idle : s.journal.op = .none) :
    giveUpStart s = coreOff { s with tokens.intake := [], tokens.service := .idle, supply.givenUp := true } :=
  if_pos idle

theorem giveUpStart_busy (s : State) (busy : s.journal.op ≠ .none) :
    giveUpStart s = { s with tokens.intake := [], tokens.service := .idle, supply.givenUp := true } := if_neg busy

/-- What a reading in STARTING makes of the Supply Monitor. -/
theorem startingReading_supply (v : Nat) (s : State) (goes : s.supply.givenUp = false)
    (high : s.levels.restartLevel ≤ v) :
    (startingReading v s).supply = { s.supply with
      filter := min (s.supply.filter + 1) 60
      replay :=
        if 60 ≤ s.supply.filter + 1 ∧ s.supply.replay = .notAsked then
          if s.provisioning.condition = .valid then (runReplay s).supply.replay else .done none
        else s.supply.replay } := by
  rw [startingReading_high v s goes (restartLevel_ge _ v high) high]
  split
  case isTrue full =>
    have reached : 60 ≤ s.supply.filter + 1 := by omega
    have replay := runReplay_replay { s with supply.filter := min (s.supply.filter + 1) 60 } s rfl
    rw [askReplay_supply, replay]
    simp only [reached, true_and]
  case isFalse early =>
    have notReached : ¬60 ≤ s.supply.filter + 1 := by omega
    simp only [notReached, false_and, if_false]

/-- Settles O33: a battery reading in RUN sheds, and in STARTING drives the restart filter. -/
theorem readingsAreActedOn : Obligations.ReadingsAreActedOn := by
  refine ⟨?_, ?_⟩
  · rintro x s _ powered early run switching rfl high
    have on : (recorded x s).supply.power ≠ .off := by rw [recorded_supply]; simp [run]
    have reads := secondArrives_run x s powered early run high
    have supply : (secondArrives x s).supply = { s.supply with
        battery := batteryReading x.battery, shedLevel := s.nextShedLevel (batteryReading x.battery) } := by
      rw [reads, shed_supply, recorded_nextShedLevel, recorded_supply]
    have notices : (finish .tokenFirst (secondArrives x s)).link.notices.getLsbD 6 =
        (s.link.notices.getLsbD 6 || decide (s.nextShedLevel (batteryReading x.battery) ≠ s.supply.shedLevel)) := by
      rw [finish_bit _ _ 6 (by decide), reads, shed_shedLevelBit _ _ on, recorded_nextShedLevel, recorded_supply]
      exact congrArg (· || _) (sampled_otherBit x s 6 (by decide) (by decide))
    refine ⟨_, rfl, ?_⟩
    rw [finish_supply, finish_switches, supply, notices]
    refine ⟨run, rfl, ?_, nextShedLevel_unprovisioned _ s, rfl, fun same i => ?_, fun changed i => ?_⟩
    · rintro provisioned f rfl
      exact (nextShedLevel_provisioned _ s provisioned).trans (shedLevelOf_three _ _ _ _ _ _)
    · rw [reads, shed_same _ _ (by rw [recorded_nextShedLevel, recorded_supply]; exact same),
        recorded_port x s i switching]
      exact ⟨rfl, rfl⟩
    · have provisioning : (recorded x s).provisioning = s.provisioning := sampled_provisioning x s
      rw [reads, shed_port_changed _ _ (by rw [recorded_nextShedLevel, recorded_supply]; exact changed) i
        ((recorded_switching x s).trans switching), recorded_nextShedLevel, recorded_port x s i switching, provisioning]
      exact ⟨(giveShedLevel_kept _ _ _).2.2,
        fun ok shed => giveShedLevel_sheds _ _ _ (newSecond_ok _ (portsOk_get s ok switching i)) shed⟩
  · rintro x s _ powered early starting goes rfl
    have reads := secondArrives_starting x s powered early starting
    have levels := recorded_levels x s
    have goes' : (recorded x s).supply.givenUp = false := by rw [recorded_supply]; exact goes
    refine ⟨_, rfl, ?_⟩
    rw [finish_supply, reads]
    refine ⟨fun cutoff => ?_, fun high => ?_, fun cutoff low => ?_, fun low => ?_⟩
    · by_cases high : s.levels.restartLevel ≤ batteryReading x.battery
      · rw [startingReading_supply _ _ goes' (levels.symm ▸ high), recorded_supply]
        exact ⟨starting, rfl⟩
      · rw [startingReading_middle _ _ goes' (levels.symm ▸ cutoff) (levels.symm ▸ Nat.not_le.1 high), recorded_supply]
        exact ⟨starting, rfl⟩
    · rw [startingReading_supply _ _ goes' (levels.symm ▸ high), recorded_supply]
      have condition : (recorded x s).provisioning.condition = s.provisioning.condition :=
        congrArg Provisioning.condition (sampled_provisioning x s)
      have replay := runReplay_replay (recorded x s) s (sampled_flash x s)
      rw [condition, replay]
      refine ⟨rfl, fun early => if_neg fun both => ?_, fun full fresh => ⟨fun invalid => ?_, fun valid => ?_⟩⟩
      · obtain few | asked := early
        · exact absurd both.1 (Nat.not_le.2 few)
        · exact asked both.2
      · simp only [full, fresh, invalid, and_self, if_true, if_false]
      · simp only [full, fresh, valid, and_self, if_true]
        exact ⟨trivial, runReplay_asked s⟩
    · rw [startingReading_middle _ _ goes' (levels.symm ▸ cutoff) (levels.symm ▸ low), recorded_supply]
      exact ⟨rfl, rfl⟩
    · rw [startingReading_low _ _ goes' (levels.symm ▸ low)]
      refine ⟨fun idle => ?_, fun busy => ?_⟩
      · rw [giveUpStart_idle _ (by rw [recorded_journal]; exact idle)]
        exact ⟨rfl, congrArg TokenUnit.intake (finish_tokens_notRun .tokenFirst _ (by exact nofun))⟩
      · rw [giveUpStart_busy _ (by rw [recorded_journal]; exact busy)]
        have power : (recorded x s).supply.power = .starting := by rw [recorded_supply, starting]
        have tokens := finish_tokens_notRun .tokenFirst { recorded x s with
          tokens := { (recorded x s).tokens with intake := [], service := .idle }
          supply := { (recorded x s).supply with givenUp := true } } (by rw [power]; decide)
        have journal := finish_journal_busy .tokenFirst { recorded x s with
          tokens := { (recorded x s).tokens with intake := [], service := .idle }
          supply := { (recorded x s).supply with givenUp := true } } (by rw [recorded_journal]; exact busy)
        rw [tokens, journal, recorded_journal]
        exact ⟨power, rfl, rfl, rfl, rfl⟩

end Sys2Proof.Machine
end

section
/-! The account's charges: tallies, exhaustion, grace, day boundaries, catch-ups (O35, O36, O39, O40). -/

namespace Sys2Proof.Machine

/-! ## The allowance stage (R9) -/

/-- What the cover of one port makes of its energy and of the allowance. -/
theorem coverPort_spec (price delta left : Nat) :
    (price = 0 → (coverPort price delta left).1 = 0)
      ∧ (coverPort price delta left).1 ≤ delta
      ∧ (coverPort price delta left).2
          + (if price = 0 then 0 else delta - (coverPort price delta left).1) = left
      ∧ ((coverPort price delta left).1 ≠ 0 → (coverPort price delta left).2 = 0)
      ∧ (price ≠ 0 → left = 0 → (coverPort price delta left).1 = delta)
      ∧ (coverPort price delta left).2 ≤ left := by
  unfold coverPort
  by_cases free : price = 0
  · simp [free]
  · simp only [if_neg free]
    refine ⟨fun isFree => absurd isFree free, ?_⟩
    omega

/-- The allowance that is left as each port's turn comes. -/
def allowanceAt (prices deltas : PerPort Nat) (left : Nat) : PerPort Nat :=
  let l1 := (coverPort prices.p0 deltas.p0 left).2
  let l2 := (coverPort prices.p1 deltas.p1 l1).2
  ⟨left, l1, l2, (coverPort prices.p2 deltas.p2 l2).2⟩

theorem allowanceStage_port (prices deltas : PerPort Nat) (left : Nat) (i : Fin 4) :
    (allowanceStage prices deltas left).1.get i =
      (coverPort (prices.get i) (deltas.get i) ((allowanceAt prices deltas left).get i)).1 := by
  fin_cases i <;> rfl

theorem get_le_of_falling (a b c d e : Nat) (cb : c ≤ b) (dc : d ≤ c) (i j : Fin 4) (before : i < j) :
    (⟨a, b, c, d⟩ : PerPort Nat).get j ≤ (⟨b, c, d, e⟩ : PerPort Nat).get i := by
  fin_cases i <;> fin_cases j <;> simp [PerPort.get] at before ⊢ <;> omega

/-- A later port finds no more allowance than an earlier one has left. -/
theorem allowanceAt_le (prices deltas : PerPort Nat) (left : Nat) (i j : Fin 4) (before : i < j) :
    (allowanceAt prices deltas left).get j ≤
      (coverPort (prices.get i) (deltas.get i) ((allowanceAt prices deltas left).get i)).2 := by
  have falls : ∀ price delta left, (coverPort price delta left).2 ≤ left := fun price delta left =>
    (coverPort_spec price delta left).2.2.2.2.2
  have next : (coverPort (prices.get i) (deltas.get i) ((allowanceAt prices deltas left).get i)).2 =
      (⟨(allowanceAt prices deltas left).p1, (allowanceAt prices deltas left).p2, (allowanceAt prices deltas left).p3,
        (allowanceStage prices deltas left).2⟩ : PerPort Nat).get i := by
    fin_cases i <;> rfl
  rw [next]
  exact get_le_of_falling _ _ _ _ _ (falls _ _ _) (falls _ _ _) i j before

/-- What the stage leaves of the allowance every port has left. -/
theorem allowanceStage_left_le (prices deltas : PerPort Nat) (left : Nat) (i : Fin 4) :
    (allowanceStage prices deltas left).2 ≤
      (coverPort (prices.get i) (deltas.get i) ((allowanceAt prices deltas left).get i)).2 := by
  have last : (allowanceStage prices deltas left).2 ≤ (allowanceAt prices deltas left).get 3 :=
    (coverPort_spec _ _ _).2.2.2.2.2
  by_cases early : i < 3
  · exact last.trans (allowanceAt_le prices deltas left i 3 early)
  · obtain rfl : i = 3 := by omega
    exact le_rfl

/-- What the allowance stage makes of the four energies and of the allowance (R9). -/
theorem allowanceStage_spec (prices deltas : PerPort Nat) (left : Nat) :
    (∀ i, prices.get i = 0 → (allowanceStage prices deltas left).1.get i = 0)
      ∧ (∀ i, (allowanceStage prices deltas left).1.get i ≤ deltas.get i)
      ∧ (∀ i j, i < j → prices.get i ≠ 0 → prices.get j ≠ 0 → (allowanceStage prices deltas left).1.get i ≠ 0 →
          (allowanceStage prices deltas left).1.get j = deltas.get j)
      ∧ (allowanceStage prices deltas left).2
          + ((if prices.p0 = 0 then 0 else deltas.p0 - (allowanceStage prices deltas left).1.p0)
            + (if prices.p1 = 0 then 0 else deltas.p1 - (allowanceStage prices deltas left).1.p1)
            + (if prices.p2 = 0 then 0 else deltas.p2 - (allowanceStage prices deltas left).1.p2)
            + (if prices.p3 = 0 then 0 else deltas.p3 - (allowanceStage prices deltas left).1.p3)) = left
      ∧ ((allowanceStage prices deltas left).2 ≠ 0 → ∀ i, (allowanceStage prices deltas left).1.get i = 0) := by
  have cover := fun i => coverPort_spec (prices.get i) (deltas.get i) ((allowanceAt prices deltas left).get i)
  simp only [← allowanceStage_port] at cover
  refine ⟨fun i => (cover i).1, fun i => (cover i).2.1, fun i j before _ priced some_ => ?_, ?_, fun rest i => ?_⟩
  · obtain ⟨-, -, -, stops, -, -⟩ := cover i
    obtain ⟨-, -, -, -, full, -⟩ := cover j
    have falls := allowanceAt_le prices deltas left i j before
    rw [stops some_] at falls
    exact full priced (Nat.le_zero.1 falls)
  · have sum0 : (allowanceAt prices deltas left).p1
        + (if prices.p0 = 0 then 0 else deltas.p0 - (allowanceStage prices deltas left).1.p0) = left :=
      (cover 0).2.2.1
    have sum1 : (allowanceAt prices deltas left).p2
        + (if prices.p1 = 0 then 0 else deltas.p1 - (allowanceStage prices deltas left).1.p1) =
          (allowanceAt prices deltas left).p1 := (cover 1).2.2.1
    have sum2 : (allowanceAt prices deltas left).p3
        + (if prices.p2 = 0 then 0 else deltas.p2 - (allowanceStage prices deltas left).1.p2) =
          (allowanceAt prices deltas left).p2 := (cover 2).2.2.1
    have sum3 : (allowanceStage prices deltas left).2
        + (if prices.p3 = 0 then 0 else deltas.p3 - (allowanceStage prices deltas left).1.p3) =
          (allowanceAt prices deltas left).p3 := (cover 3).2.2.1
    omega
  · by_contra some_
    obtain ⟨-, -, -, stops, -, -⟩ := cover i
    have falls := allowanceStage_left_le prices deltas left i
    rw [stops some_] at falls
    exact rest (Nat.le_zero.1 falls)

/-- Settles O35: each port's cover hands on the allowance it leaves, in port order. -/
theorem talliesCharge : Obligations.TalliesCharge := by
  intro t counts point a
  obtain ⟨free, le, order, sum, left⟩ := allowanceStage_spec t.prices (counts.zip (fun c m => c - m) a.marks)
    a.allowance
  simp only [perPort_get_zip] at le order
  refine ⟨(tallyStages t counts a).1, _, _, rfl, free, le, order, sum, left, fun active below => ?_⟩
  simp only [tallyAccount, active]
  have charged : chargeActive t (tallyStages t counts a).1 (tallyStages t counts a).2 =
      { (tallyStages t counts a).2 with
        balance := a.balance - (tallyStages t counts a).1, ht := a.ht + (tallyStages t counts a).1 } := if_pos below
  rw [charged]
  simp only [tallyStages, energyCost, active]

/-! ## Exhaustion and grace (R11, R12, R15) -/

/-- What a charge at or above the balance makes of an ACTIVE account (R11). -/
abbrev Exhausted (t : Tariff) (charge : Nat) (a b : Account) : Prop :=
  b.balance = 0
    ∧ (a.graceArmed = true → 0 < t.graceDays → charge - a.balance ≤ t.debtLimit →
        b.state = .grace ∧ b.debt = charge - a.balance ∧ b.graceBudget = t.graceDays * 1440 ∧ b.graceArmed = false
          ∧ b.ht = a.ht + charge)
    ∧ (a.graceArmed = true → 0 < t.graceDays → t.debtLimit < charge - a.balance →
        b.state = .locked ∧ b.debt = t.debtLimit ∧ b.graceArmed = true ∧ b.ht = a.ht + a.balance + t.debtLimit)
    ∧ (a.graceArmed = false ∨ t.graceDays = 0 →
        b.state = .locked ∧ b.debt = min (charge - a.balance) t.debtLimit ∧ b.graceArmed = a.graceArmed
          ∧ b.ht = a.ht + a.balance + min (charge - a.balance) t.debtLimit)

theorem chargeActive_exhausts (t : Tariff) (charge : Nat) (a : Account) (h : a.balance ≤ charge) :
    Exhausted t charge a (chargeActive t charge a) := by
  rw [chargeActive, if_neg (Nat.not_lt.2 h), exhaust]
  by_cases graced : (a.graceArmed && decide (0 < t.graceDays)) = true
  · rw [if_pos graced]
    obtain ⟨armed, days⟩ : a.graceArmed = true ∧ 0 < t.graceDays := by simpa using graced
    have never : ¬(a.graceArmed = false ∨ t.graceDays = 0) := by
      rw [armed]
      rintro (no | none)
      · cases no
      · omega
    by_cases within : charge - a.balance ≤ t.debtLimit
    · rw [if_pos within]
      exact ⟨rfl, fun _ _ _ => ⟨rfl, rfl, rfl, rfl, rfl⟩, fun _ _ above => absurd above (Nat.not_lt.2 within),
        fun not => absurd not never⟩
    · rw [if_neg within]
      exact ⟨rfl, fun _ _ below => absurd below within, fun _ _ _ => ⟨rfl, rfl, armed, rfl⟩,
        fun not => absurd not never⟩
  · rw [if_neg graced]
    have never : a.graceArmed = true → 0 < t.graceDays → False := fun armed days => graced (by simp [armed, days])
    exact ⟨rfl, fun armed days => (never armed days).elim, fun armed days => (never armed days).elim,
      fun _ => ⟨rfl, rfl, rfl, rfl⟩⟩

/-- What a charge makes of an account in GRACE, with the minutes it uses (R12, R15). -/
abbrev GraceCharged (t : Tariff) (charge minutes : Nat) (a b : Account) : Prop :=
  b.debt = a.debt + min charge (t.debtLimit - a.debt) ∧ b.ht = a.ht + min charge (t.debtLimit - a.debt)
    ∧ b.balance = a.balance ∧ b.ct = a.ct ∧ b.ft = a.ft ∧ b.vt = a.vt ∧ b.graceArmed = a.graceArmed
    ∧ (a.graceBudget ≤ minutes ∨ t.debtLimit ≤ b.debt → b.state = .locked ∧ b.graceBudget = 0)
    ∧ (minutes < a.graceBudget → b.debt < t.debtLimit →
        b.state = a.state ∧ b.graceBudget = a.graceBudget - minutes)

theorem chargeGrace_charges (t : Tariff) (charge minutes : Nat) (a : Account) :
    GraceCharged t charge minutes a (chargeGrace t charge minutes a) := by
  unfold chargeGrace
  dsimp only
  split
  case isTrue locks =>
    refine ⟨rfl, rfl, rfl, rfl, rfl, rfl, rfl, fun _ => ⟨rfl, rfl⟩, fun lasts below => ?_⟩
    obtain used | reached := locks
    · omega
    · exact absurd reached (Nat.not_le.2 below)
  case isFalse stays =>
    refine ⟨rfl, rfl, rfl, rfl, rfl, rfl, rfl, fun locks => absurd ?_ stays, fun _ _ => ⟨rfl, rfl⟩⟩
    exact locks.imp_left fun used => by omega

/-- A charge leaves the tariff, the counters of credit, the remainders, the allowance and the marks. -/
theorem chargeActive_kept (t : Tariff) (charge : Nat) (a : Account) :
    chargeActive t charge a = { a with
      state := (chargeActive t charge a).state, balance := (chargeActive t charge a).balance
      debt := (chargeActive t charge a).debt, graceBudget := (chargeActive t charge a).graceBudget
      graceArmed := (chargeActive t charge a).graceArmed, ht := (chargeActive t charge a).ht } := by
  unfold chargeActive exhaust
  dsimp only
  repeat' split
  all_goals rfl

theorem chargeGrace_kept (t : Tariff) (charge minutes : Nat) (a : Account) :
    chargeGrace t charge minutes a = { a with
      state := (chargeGrace t charge minutes a).state, debt := (chargeGrace t charge minutes a).debt
      graceBudget := (chargeGrace t charge minutes a).graceBudget, ht := (chargeGrace t charge minutes a).ht } := by
  unfold chargeGrace
  dsimp only
  split <;> rfl

theorem lowersCredit_iff (t : Tariff) (before after : Account) :
    lowersCredit t before after = true ↔
      before.state = .active ∧ 0 < t.standing ∧ t.standing ≤ before.balance ∧ after.balance < t.standing := by
  simp [lowersCredit, and_assoc]

/-- Settles O36: a tally that exhausts an ACTIVE account, and one that starts in GRACE. -/
theorem exhaustionAndGrace : Obligations.ExhaustionAndGrace := by
  rintro f counts point a b t charge excess rfl rfl rfl rfl
  refine ⟨fun active exhausts => ?_, fun grace => ?_⟩
  · simp only [tallyAccount, active]
    exact chargeActive_exhausts _ _ (tallyStages _ counts a).2 exhausts
  · have notLow : lowersCredit (tariffOf f a.activeTariff) a (tallyAccount (tariffOf f a.activeTariff) counts point a)
        = false := Bool.eq_false_iff.2 fun low => nomatch grace.symm.trans ((lowersCredit_iff _ _ _).1 low).1
    obtain ⟨debt, ht, balance, ct, ft, vt, armed, locks, lasts⟩ :=
      chargeGrace_charges (tariffOf f a.activeTariff) (tallyStages (tariffOf f a.activeTariff) counts a).1 15
        (tallyStages (tariffOf f a.activeTariff) counts a).2
    refine ⟨?_, ?_, ?_, ?_, ?_, ?_, ?_, ?_, ?_, notLow⟩
    all_goals simp only [tallyAccount, grace]
    · exact debt
    · exact ht
    · exact balance
    · exact ct
    · exact ft
    · exact vt
    · exact armed
    · exact locks
    · exact fun long below => ⟨(lasts long below).1.trans grace, (lasts long below).2⟩

/-! ## The day boundary (R32 to R36) -/

theorem dayBoundary_plain (f : Settings) (a : Account) (none : a.stagedTariff = none) :
    dayBoundary f a = { a with allowance := (tariffOf f a.activeTariff).allowance } := by
  simp only [dayBoundary, activateTariff, none]

theorem dayBoundary_staged (f : Settings) (a : Account) (n : Nat) (staged : a.stagedTariff = some n) :
    dayBoundary f a =
      if a.state = .grace ∧ (tariffOf f n).debtLimit < a.debt then
        { a with
          activeTariff := n, stagedTariff := none, state := .locked, graceBudget := 0
          allowance := (tariffOf f n).allowance }
      else { a with activeTariff := n, stagedTariff := none, allowance := (tariffOf f n).allowance } := by
  simp only [dayBoundary, activateTariff, staged]
  split <;> rfl

/-- A tally leaves the tariffs (R29). -/
theorem tallyAccount_tariffs (t : Tariff) (counts : PerPort Nat) (point : ClockTime) (a : Account) :
    (tallyAccount t counts point a).activeTariff = a.activeTariff
      ∧ (tallyAccount t counts point a).stagedTariff = a.stagedTariff := by
  unfold tallyAccount
  split
  · exact ⟨rfl, rfl⟩
  · exact ⟨rfl, rfl⟩
  · exact ⟨rfl, rfl⟩
  · dsimp only
    rw [chargeActive_kept]
    exact ⟨rfl, rfl⟩
  · dsimp only
    rw [chargeGrace_kept]
    exact ⟨rfl, rfl⟩

theorem withBoundary_lowCredit (f : Settings) (due : Bool) (c : Charged) :
    (withBoundary f due c).lowCredit = c.lowCredit := by cases due <;> rfl

/-- Settles O39: the day boundary, and the tally it follows. -/
theorem daysBegin : Obligations.DaysBegin := by
  refine fun f a => ⟨dayBoundary_plain f a, fun n staged => ⟨fun grace above => ?_, fun stays => ?_⟩, ?_⟩
  · rw [dayBoundary_staged f a n staged, if_pos ⟨grace, above⟩]
  · rw [dayBoundary_staged f a n staged, if_neg]
    rintro ⟨grace, above⟩
    exact stays.elim (· grace) (Nat.not_le.2 above)
  · rintro counts point b c rfl rfl
    obtain ⟨active, staged⟩ := tallyAccount_tariffs (tariffOf f a.activeTariff) counts point a
    refine ⟨fun midnight => ?_, fun notMidnight => ?_, active, staged, ?_⟩
    · simp only [tallyAndBoundary, midnight, decide_true, withBoundary, if_true]
      exact ⟨trivial, congrArg _ staged⟩
    · simp only [tallyAndBoundary, notMidnight, decide_false, withBoundary]
      exact ⟨rfl, rfl⟩
    · rw [tallyAndBoundary, withBoundary_lowCredit]
      exact lowersCredit_iff _ _ _

/-! ## Catch-ups (R15, R16) -/

theorem catchUp_plain (f : Settings) (n : Nat) (upTo : ClockTime) (a : Account) :
    catchUp f n false upTo a =
      ⟨{ catchUpCharge (tariffOf f a.activeTariff) n a with lastTally := latestTallyPoint upTo },
        lowersCredit (tariffOf f a.activeTariff) a (catchUpCharge (tariffOf f a.activeTariff) n a), false⟩ := rfl

/-- What a catch-up's charge leaves of the account. -/
theorem catchUpCharge_kept (t : Tariff) (n : Nat) (a : Account) :
    (catchUpCharge t n a).marks = a.marks ∧ (catchUpCharge t n a).re = a.re
      ∧ (catchUpCharge t n a).allowance = a.allowance ∧ (catchUpCharge t n a).activeTariff = a.activeTariff
      ∧ (catchUpCharge t n a).stagedTariff = a.stagedTariff ∧ (catchUpCharge t n a).ct = a.ct
      ∧ (catchUpCharge t n a).ft = a.ft ∧ (catchUpCharge t n a).vt = a.vt := by
  unfold catchUpCharge
  dsimp only
  split
  · rw [chargeActive_kept]
    exact ⟨rfl, rfl, rfl, rfl, rfl, rfl, rfl, rfl⟩
  · rw [chargeGrace_kept]
    exact ⟨rfl, rfl, rfl, rfl, rfl, rfl, rfl, rfl⟩
  · exact ⟨rfl, rfl, rfl, rfl, rfl, rfl, rfl, rfl⟩

/-- Settles O40: a catch-up's charge in each state, and the boundary that follows it. -/
theorem catchUpsCharge : Obligations.CatchUpsCharge := by
  rintro f n upTo a b t charge excess rfl rfl rfl rfl
  obtain ⟨marks, re, allowance, active, staged, ct, ft, vt⟩ := catchUpCharge_kept (tariffOf f a.activeTariff) n a
  refine ⟨?_, Nat.mod_lt _ (by decide), marks, re, allowance, active, staged, ct, ft, vt, fun isActive => ?_,
    fun grace => ?_, fun retired => ?_, rfl, congrArg Option.isSome staged, rfl, fun crossing => ?_⟩
  · exact Nat.div_add_mod' _ _
  · have charged : catchUpCharge (tariffOf f a.activeTariff) n a = chargeActive (tariffOf f a.activeTariff)
        ((a.rs + n * (tariffOf f a.activeTariff).standing) / 96)
        { a with rs := (a.rs + n * (tariffOf f a.activeTariff).standing) % 96 } := by
      simp only [catchUpCharge, isActive]
    rw [catchUp_plain, charged]
    refine ⟨?_, fun below => ?_, fun exhausts => ?_⟩
    · rw [chargeActive_kept]
    · rw [chargeActive, if_pos (by exact below)]
      exact ⟨isActive, rfl, rfl, rfl, rfl, rfl⟩
    · exact chargeActive_exhausts _ _ { a with rs := _ } exhausts
  · have charged : catchUpCharge (tariffOf f a.activeTariff) n a = chargeGrace (tariffOf f a.activeTariff)
        ((a.rs + n * (tariffOf f a.activeTariff).standing) / 96) (15 * n)
        { a with rs := (a.rs + n * (tariffOf f a.activeTariff).standing) % 96 } := by
      simp only [catchUpCharge, grace]
    rw [catchUp_plain, charged]
    obtain ⟨debt, ht, balance, -, -, -, armed, locks, lasts⟩ := chargeGrace_charges (tariffOf f a.activeTariff)
      ((a.rs + n * (tariffOf f a.activeTariff).standing) / 96) (15 * n)
      { a with rs := (a.rs + n * (tariffOf f a.activeTariff).standing) % 96 }
    refine ⟨?_, debt, ht, balance, armed, locks, fun long below => ?_⟩
    · rw [chargeGrace_kept]
    · exact ⟨(lasts long below).1.trans grace, (lasts long below).2⟩
  · rw [catchUp_plain, catchUpCharge_of_retired _ n a retired]
  · rw [catchUp, withBoundary_lowCredit]
    exact lowersCredit_iff _ _ _

end Sys2Proof.Machine
end

section
/-! Caps, anchors, and what stops or times a port (O41 to O43). -/

namespace Sys2Proof.Machine

/-! ## Caps (R24, R104, R105) -/

theorem accountCaps_get (t : Tariff) (a : Account) (i : Fin 4) :
    (accountCaps t a).get i = match a.state with
      | .active => if t.portSet.get i then 1000 else 0
      | .grace => if t.gracePorts.get i then t.graceDuty else 0
      | .paidOff => 1000
      | .locked => 0
      | .unprovisioned => 0 := by
  have same : ∀ n : Nat, (PerPort.same n).get i = n := fun n => by fin_cases i <;> rfl
  cases state : a.state <;> simp only [accountCaps, state, capsOn, perPort_get_map, same]

/-- A driven port that acts on its target has no more duty than its target, and no more than it had. -/
theorem actOnTarget_duty (p : Port) (driven : ¬(p.state = .idle ∨ p.state = .tripWait ∨ p.state = .latched))
    (barred : p.state = .barred → p.duty = 0) :
    p.actOnTarget.duty = min p.duty p.target
      ∧ (p.actOnTarget.state = p.state ∨ p.state = .barred ∨ p.state = .ramping ∨ p.state = .on) := by
  unfold Port.actOnTarget
  split
  case h_1 state =>
    refine ⟨?_, .inr (.inl state)⟩
    rw [barred state, Nat.zero_min]
    split
    · exact barred state
    · rfl
  case h_2 state =>
    refine ⟨?_, .inr (.inr (.inl state))⟩
    split
    case isTrue zero => rw [zero, Nat.min_zero]; rfl
    case isFalse =>
      split
      case isTrue low => exact (Nat.min_eq_right low).symm
      case isFalse high => exact (Nat.min_eq_left (Nat.le_of_not_le high)).symm
  case h_3 state =>
    refine ⟨?_, .inr (.inr (.inr state))⟩
    split
    case isTrue zero => rw [zero, Nat.min_zero]; rfl
    case isFalse =>
      split
      case isTrue low => exact (Nat.min_eq_right low.le).symm
      case isFalse notLow =>
        have stays := (Nat.min_eq_left (Nat.not_lt.1 notLow)).symm
        split
        · exact stays
        · exact stays
  case h_4 state => exact absurd (.inl state) driven
  case h_5 state => exact absurd (.inr (.inl state)) driven
  case h_6 state => exact absurd (.inr (.inr state)) driven

/-- A port that is retargeted has no more duty than its target, and no more than it had; it changes state only where the
target drives it. -/
theorem retarget_duty (p : Port) (inert : p.state = .idle ∨ p.state = .tripWait ∨ p.state = .latched → p.duty = 0)
    (barred : p.state = .barred → p.duty = 0) (same : p.wanted = p.target → p.duty ≤ p.target) :
    p.retarget.duty = min p.duty p.wanted
      ∧ (p.retarget.state = p.state ∨ p.state = .barred ∨ p.state = .ramping ∨ p.state = .on) := by
  by_cases still : p.state = .idle ∨ p.state = .tripWait ∨ p.state = .latched
  · rw [retarget_of_inert p still]
    exact ⟨(inert still).trans (by rw [inert still, Nat.zero_min]), .inl rfl⟩
  · by_cases asBefore : p.wanted = p.target
    · rw [Port.retarget, if_pos asBefore]
      exact ⟨by rw [asBefore, Nat.min_eq_left (same asBefore)], .inl rfl⟩
    · rw [Port.retarget, if_neg asBefore]
      exact actOnTarget_duty { p with target := p.wanted } still barred

theorem giveAccountCap_duty (cap : Nat) (p : Port) (ok : PortOk p) :
    (p.giveAccountCap cap).duty = min p.duty (p.giveAccountCap cap).target
      ∧ ((p.giveAccountCap cap).state = p.state ∨ p.state = .barred ∨ p.state = .ramping ∨ p.state = .on) := by
  obtain ⟨-, -, -, -, target, -, -⟩ := retarget_kept { p with accountCap := cap }
  obtain ⟨-, -, -, idle, barred, ramping, on, tripWait, latched⟩ := ok
  have duty := retarget_duty { p with accountCap := cap }
    (fun state => state.elim (fun h => (idle h).2) (·.elim (fun h => (tripWait h).2) latched))
    (fun state => (barred state).2.2) fun _ => ?_
  · rw [Port.giveAccountCap, target]
    exact duty
  · show p.duty ≤ p.target
    cases state : p.state with
    | idle => exact (idle state).2 ▸ Nat.zero_le _
    | barred => exact (barred state).2.2 ▸ Nat.zero_le _
    | ramping => exact (ramping state).2.le
    | on => exact (on state).2.1.le
    | tripWait => exact (tripWait state).2 ▸ Nat.zero_le _
    | latched => exact latched state ▸ Nat.zero_le _

theorem giveCaps_port (s : State) (switching : s.switches.switching = true) (i : Fin 4) :
    (giveCaps s).switches.ports.get i = (s.switches.ports.get i).giveAccountCap
      ((accountCaps (tariffOf s.provisioning.settings s.account.acct.activeTariff) s.account.acct).get i) := by
  rw [giveCaps, if_pos switching]
  exact perPort_get_zip _ _ _ i

theorem giveCaps_switching (s : State) : (giveCaps s).switches.switching = s.switches.switching := by
  unfold giveCaps
  dsimp only
  split <;> rfl

/-- Settles O41: the caps by the account's state, and what each port makes of its own. -/
theorem capsFollowTheAccount : Obligations.CapsFollowTheAccount := by
  refine ⟨accountCaps_get, fun s switching ok => ⟨?_, (giveCaps_switching s).trans switching, giveCaps_ok s ok, ?_⟩⟩
  · rw [giveCaps, if_pos switching]
  · rintro i p q cap rfl rfl rfl
    have portOk := portsOk_get s ok switching i
    rw [giveCaps_port s switching i]
    obtain ⟨demand, demandDuty, accountCap, shedCap, target, retry, -⟩ := retarget_kept
      { s.switches.ports.get i with accountCap := (accountCaps
        (tariffOf s.provisioning.settings s.account.acct.activeTariff) s.account.acct).get i }
    obtain ⟨duty, state⟩ := giveAccountCap_duty _ (s.switches.ports.get i) portOk
    exact ⟨accountCap, demand, demandDuty, shedCap, retry, target, duty, state⟩

/-! ## Anchors (R81 to R85) -/

theorem laterThan_iff (a b : ClockTime) (ha : a.minute < 1440) (hb : b.minute < 1440) :
    a.laterThan b = true ↔ b.day * 1440 + b.minute < a.day * 1440 + a.minute := by
  simp only [ClockTime.laterThan, Bool.or_eq_true, Bool.and_eq_true, decide_eq_true_eq]
  omega

theorem anchorIntervals_eq (t : Tariff) (now target : ClockTime) :
    anchorIntervals t now target = if t.mode = .service then 0
      else min ((target.day * 1440 + target.minute) / 15 - (now.day * 1440 + now.minute) / 15)
        (t.catchUpCap * 96) := by
  cases mode : t.mode <;> simp [anchorIntervals, mode, tallyPoints, ClockTime.count]

theorem anchorFor_issue (t : Tariff) (now : ClockTime) (k : TokenKind) (issue value : Nat) (h : k ≠ .setTime) :
    anchorFor t now k issue value = issueAnchor t now issue := by
  cases k with
  | setTime => exact absurd rfl h
  | _ => rfl

/-- Settles O42: the anchor computed, and the anchor made. -/
theorem anchorsAreMade : Obligations.AnchorsAreMade := by
  refine ⟨fun t now k issue value hn hv => ⟨fun m => anchorIntervals t now ⟨issue, m⟩,
    fun m => anchorIntervals_eq t now ⟨issue, m⟩, fun other => ?_, fun setTime => ?_⟩,
    fun c setTime crossing target n hc ht => ?_⟩
  · rw [anchorFor_issue t now k issue value other, issueAnchor]
    refine ⟨fun ahead => if_pos ahead, fun notAhead recent => ?_, fun old => ?_⟩
    · rw [if_neg (Nat.not_lt.2 notAhead), if_pos recent]
    · rw [if_neg (by omega), if_neg (Nat.not_le.2 old)]
  · subst setTime
    have ahead := laterThan_iff ⟨issue, value⟩ now hv hn
    have behind := laterThan_iff now ⟨issue, value⟩ hn hv
    refine ⟨fun later => if_pos (ahead.2 later), fun same => ?_, fun earlier => ?_⟩
    · subst same
      exact (if_neg (mt ahead.1 (Nat.lt_irrefl _))).trans (if_neg (mt behind.1 (Nat.lt_irrefl _)))
    · exact (if_neg (mt ahead.1 (Nat.lt_asymm earlier))).trans (if_pos (behind.2 earlier))
  · have later := laterThan_iff target c.time ht hc
    refine ⟨rfl, rfl, ?_, rfl, rfl, rfl, fun ahead => ⟨if_pos (later.2 ahead), ?_⟩,
      fun notAhead => ⟨if_neg (mt later.1 (Nat.not_lt.2 notAhead)), ?_⟩⟩
    · cases setTime <;> rfl
    · simp only [DayClock.anchorDayChange, later.2 ahead, Bool.and_true]
    · simp only [DayClock.anchorDayChange, Bool.eq_false_iff.2 (mt later.1 (Nat.not_lt.2 notAhead)), Bool.and_false]
      rfl

/-! ## Trips and timers (R109, R111, R112, R114) -/

/-- An event that changes one port and nothing else. -/
theorem exec_onPort (i : Instr) (s : State) (j : Fin 4) (f : Port → Port) (settled : Settled s)
    (switching : s.switches.switching = true) (run : exec i s = .next (finish .tokenFirst (onPort j f s))) :
    exec i s = .next (s.withPort j (f (s.switches.ports.get j))) :=
  exec_settled i s _ _ run (onPort_eq j f s switching) settled

theorem withPort_same (s : State) (j : Fin 4) : s.withPort j (s.switches.ports.get j) = s := by
  fin_cases j <;> rfl

theorem armed_iff (p : Port) : p.armed = true ↔ p.state = .ramping ∨ p.state = .on := by
  simp [Port.armed]

theorem tripPort_trips (i : Fin 4) (current : Nat) (s : State) (switching : s.switches.switching = true)
    (armed : (s.switches.ports.get i).state = .ramping ∨ (s.switches.ports.get i).state = .on)
    (above : s.provisioning.settings.currentLimits.get i < current) :
    tripPort i current s = raiseIf (decide (3 ≤ (s.switches.ports.get i).retry)) .portLatched
      (raise .portTrip (s.withPort i (s.switches.ports.get i).trip)) := by
  unfold tripPort
  rw [onPort_eq i Port.trip s switching]
  exact if_pos (by simp [switching, (armed_iff _).2 armed, above])

/-- A port that trips, at the end of its event, with the causes it raises. -/
theorem exec_trip (i : Fin 4) (current : Nat) (s : State) (settled : Settled s) (awake : s.supply.power.awake = true)
    (switching : s.switches.switching = true)
    (armed : (s.switches.ports.get i).state = .ramping ∨ (s.switches.ports.get i).state = .on)
    (above : s.provisioning.settings.currentLimits.get i < current) :
    ∃ t, exec (.trip i current) s = .next t
      ∧ t.link.notices = (if 3 ≤ (s.switches.ports.get i).retry then s.link.notices ||| 0x0180#16
          else s.link.notices ||| 0x0080#16)
      ∧ t.link.replies = s.link.replies
      ∧ t = { s.withPort i (s.switches.ports.get i).trip with link := t.link } := by
  have trips := tripPort_trips i current s switching armed above
  have on : s.supply.power ≠ .off := by
    rintro off
    rw [off] at awake
    cases awake
  have first := raise_notices .portTrip (s.withPort i (s.switches.ports.get i).trip) on
  have units : UnitsSettled (raise .portTrip (s.withPort i (s.switches.ports.get i).trip)) := by
    simpa [UnitsSettled, State.withPort] using settled.1
  by_cases spent : 3 ≤ (s.switches.ports.get i).retry
  · rw [decide_eq_true spent, raiseIf, if_pos rfl] at trips
    have second := raise_notices .portLatched (raise .portTrip (s.withPort i (s.switches.ports.get i).trip))
      (by rw [raise_supply]; exact on)
    have units' : UnitsSettled (raise .portLatched (raise .portTrip (s.withPort i (s.switches.ports.get i).trip))) := by
      simpa [UnitsSettled] using units
    refine ⟨_, exec_unitsSettled (.trip i current) s _ _ rfl trips units', ?_, ?_, ?_⟩
    · rw [pump_notices, second, first, if_pos spent, BitVec.or_assoc]
      rfl
    · rw [pump_replies, raise_replies, raise_replies]
      rfl
    · rw [raise_eq, raise_eq]
  · rw [decide_eq_false spent, raiseIf, if_neg (by decide)] at trips
    refine ⟨_, exec_unitsSettled (.trip i current) s _ _ rfl trips units, ?_, ?_, ?_⟩
    · rw [pump_notices, first, if_neg spent]
      rfl
    · rw [pump_replies, raise_replies]
      rfl
    · rw [raise_eq]

/-- A port's event that leaves its port as it was changes nothing. -/
theorem exec_onPort_same (i : Instr) (s : State) (j : Fin 4) (f : Port → Port) (settled : Settled s)
    (switching : s.switches.switching = true) (run : exec i s = .next (finish .tokenFirst (onPort j f s)))
    (same : f (s.switches.ports.get j) = s.switches.ports.get j) : exec i s = .next s := by
  rw [exec_onPort i s j f settled switching run, same, withPort_same]

theorem rampStep_other (p : Port) (other : p.state ≠ .ramping) : p.rampStep = p := by
  unfold Port.rampStep
  split
  case h_1 state => exact absurd state other
  case h_2 => rfl

theorem tripWaitEnd_other (p : Port) (other : p.state ≠ .tripWait) : p.tripWaitEnd = p := by
  unfold Port.tripWaitEnd
  split
  case h_1 state => exact absurd state other
  case h_2 => rfl

theorem onRunComplete_other (p : Port) (other : p.state ≠ .on) : p.onRunComplete = p := by
  unfold Port.onRunComplete
  split
  case h_1 state => exact absurd state other
  case h_2 => rfl

theorem rampStep_reaches (p : Port) (ramping : p.state = .ramping) (below : p.duty < p.target)
    (near : p.target ≤ p.duty + 250) :
    p.rampStep = { p with state := .on, duty := p.target, stepTimer := 0, onRun := 0, driven := true } := by
  have duty : p.duty + min 250 (p.target - p.duty) = p.target := by omega
  have positive : 0 < p.target := by omega
  simp only [Port.rampStep, ramping, duty, Port.enterOn, positive, decide_true, Bool.or_true, if_true]

theorem rampStep_rises (p : Port) (ramping : p.state = .ramping) (far : p.duty + 250 < p.target) :
    p.rampStep = { p with duty := p.duty + 250, stepTimer := 100, driven := true } := by
  have step : min 250 (p.target - p.duty) = 250 := by omega
  have positive : 0 < p.duty + 250 := by omega
  simp only [Port.rampStep, ramping, step, far.ne, if_false, positive, decide_true, Bool.or_true]

theorem tripWaitEnd_waiting (p : Port) (waits : p.state = .tripWait) :
    p.tripWaitEnd = if p.target = 0 then { p with state := .barred, duty := 0, stepTimer := 0, tripWait := 0, onRun := 0 }
      else { p with state := .ramping, duty := 0, stepTimer := 100, tripWait := 0 } := by
  simp only [Port.tripWaitEnd, waits, Port.enterBarred, Port.enterRamping]

theorem onRunComplete_on (p : Port) (on : p.state = .on) : p.onRunComplete = { p with retry := 0, onRun := 10000 } := by
  simp only [Port.onRunComplete, on]

/-- Settles O43: the ports' four events. -/
theorem tripsAndTimers : Obligations.TripsAndTimers := by
  refine ⟨fun i current s settled awake switching => ⟨fun armed above => ?_, fun calm => ?_⟩,
    fun i s settled switching => ⟨?_, fun other => ?_⟩, fun i s settled switching => ⟨?_, fun other => ?_⟩,
    fun i s settled switching => ⟨fun on => ?_, fun other => ?_⟩⟩
  · obtain ⟨t, run, notices, replies, same⟩ := exec_trip i current s settled awake switching armed above
    refine ⟨fun left => ⟨t, run, ?_, replies, ?_⟩, fun spent => ⟨t, run, ?_, replies, ?_⟩⟩
    · rw [notices, if_neg (Nat.not_le.2 left)]
    · rwa [Port.trip, if_pos left] at same
    · rw [notices, if_pos spent]
    · rwa [Port.trip, if_neg (Nat.not_lt.2 spent)] at same
  · have ignored : tripPort i current s = s := by
      refine if_neg ?_
      simp only [Bool.and_eq_true, decide_eq_true_eq, armed_iff]
      rintro ⟨⟨-, ramping | on⟩, above⟩
      · exact calm.elim (fun not => not.1 ramping) (Nat.not_le.2 above)
      · exact calm.elim (fun not => not.2 on) (Nat.not_le.2 above)
    exact exec_settled (.trip i current) s _ s rfl ignored settled
  · rintro p rfl ramping below
    have run := exec_onPort (.rampStep i) s i Port.rampStep settled switching rfl
    exact ⟨fun near => rampStep_reaches _ ramping below near ▸ run, fun far => rampStep_rises _ ramping far ▸ run⟩
  · exact exec_onPort_same (.rampStep i) s i Port.rampStep settled switching rfl (rampStep_other _ other)
  · rintro p rfl waits
    exact tripWaitEnd_waiting _ waits ▸ exec_onPort (.tripWaitEnd i) s i Port.tripWaitEnd settled switching rfl
  · exact exec_onPort_same (.tripWaitEnd i) s i Port.tripWaitEnd settled switching rfl (tripWaitEnd_other _ other)
  · exact onRunComplete_on _ on ▸ exec_onPort (.onRunComplete i) s i Port.onRunComplete settled switching rfl
  · exact exec_onPort_same (.onRunComplete i) s i Port.onRunComplete settled switching rfl (onRunComplete_other _ other)

end Sys2Proof.Machine
end

section
/-! Token evaluation, the replay window and the records of the relay store (O46, O47, O50). -/

namespace Sys2Proof.Machine

/-! ## The replay window (R53, R54) -/

theorem mem_insertMark (m s : Nat) (xs : List Nat) : m ∈ insertMark s xs ↔ m = s ∨ m ∈ xs := by
  induction xs with
  | nil => simp [insertMark]
  | cons x rest ih =>
    unfold insertMark
    split
    · simp
    · split
      next same => simp [same]
      next => simp [ih, or_left_comm]

theorem verdict_new_iff (w : Window) (s : Nat) :
    w.verdict s = .new ↔ w.high < s ∨ (s < w.high ∧ s ∉ w.marks ∧ w.high ≤ s + 31) := by
  unfold Window.verdict
  by_cases above : w.high < s
  · simp [above]
  · rw [if_neg above]
    by_cases told : s = w.high ∨ s ∈ w.marks
    · rw [if_pos told]
      simp only [above, false_or]
      exact ⟨(nomatch ·), fun new => absurd told (not_or.2 ⟨new.1.ne, new.2.1⟩)⟩
    · obtain ⟨notHigh, unmarked⟩ := not_or.1 told
      have below : s < w.high := by omega
      rw [if_neg told]
      by_cases near : w.high ≤ s + 31
      · simp [near, below, unmarked]
      · simp [near, above]

theorem verdict_duplicate_iff (w : Window) (s : Nat) :
    w.verdict s = .duplicate ↔ s ≤ w.high ∧ (s = w.high ∨ s ∈ w.marks) := by
  unfold Window.verdict
  by_cases above : w.high < s
  · simp [above]
  · rw [if_neg above]
    by_cases told : s = w.high ∨ s ∈ w.marks
    · simp [told, Nat.le_of_not_lt above]
    · rw [if_neg told]
      split
      · simp [told]
      · simp [told]

theorem verdict_tooOld (w : Window) (s : Nat) (unmarked : s ∉ w.marks) (old : s + 31 < w.high) :
    w.verdict s = .tooOld := by
  unfold Window.verdict
  rw [if_neg (by omega), if_neg (not_or.2 ⟨by omega, unmarked⟩), if_neg (by omega)]

theorem mark_above (w : Window) (s : Nat) (above : w.high < s) :
    (w.mark s).high = s
      ∧ ∀ m, m ∈ (w.mark s).marks ↔ (m ∈ w.marks ∨ (m = w.high ∧ w.high ≠ 0)) ∧ s ≤ m + 31 := by
  unfold Window.mark
  rw [if_pos above]
  refine ⟨rfl, fun m => ?_⟩
  by_cases zero : w.high = 0
  · simp [zero]
  · simp [zero, mem_insertMark, or_comm]

theorem mark_below (w : Window) (s : Nat) (below : s < w.high) :
    (w.mark s).high = w.high ∧ ∀ m, m ∈ (w.mark s).marks ↔ m ∈ w.marks ∨ m = s := by
  unfold Window.mark
  rw [if_neg (Nat.lt_asymm below), if_pos below]
  exact ⟨rfl, fun m => (mem_insertMark m s w.marks).trans or_comm⟩

/-- Settles O47: the verdict's cases, and the two cases of a marking. -/
theorem serialsAreJudgedAndMarked : Obligations.SerialsAreJudgedAndMarked := by
  refine ⟨fun w s => ⟨fun above => (verdict_new_iff w s).2 (.inl above), fun told => (verdict_duplicate_iff w s).2 ?_,
    fun below unmarked near => (verdict_new_iff w s).2 (.inr ⟨below, unmarked, by omega⟩),
    fun below unmarked old => verdict_tooOld w s unmarked (by omega)⟩, ?_⟩
  · obtain same | ⟨le, marked⟩ := told
    · exact ⟨same.le, .inl same⟩
    · exact ⟨le, .inr marked⟩
  · intro w s positive new empty inWindow
    simp only [ne_eq, verdict_new_iff, verdict_duplicate_iff] at new ⊢
    obtain above | ⟨below, unmarked, near⟩ := new
    · obtain ⟨high, marks⟩ := mark_above w s above
      refine ⟨by rw [high]; omega, fun q positive' notNew => ?_, fun q _ other told => ?_, fun m marked => ?_, ?_,
        fun _ => marks, fun below => absurd below (Nat.lt_asymm above)⟩
      · rw [high, marks q]
        rintro (over' | ⟨below, unmarked, near⟩)
        · exact notNew (.inl (above.trans over'))
        · refine notNew (.inr ⟨?_, fun marked => unmarked ⟨.inl marked, near⟩, by omega⟩)
          have notHigh : q ≠ w.high := fun same => unmarked ⟨.inr ⟨same, by omega⟩, near⟩
          have notAbove : ¬ w.high < q := fun over' => notNew (.inl over')
          omega
      · rw [high, marks q] at told
        obtain ⟨-, same | ⟨marked | ⟨same, -⟩, -⟩⟩ := told
        · exact absurd same other
        · exact ⟨(inWindow q marked).1.le, .inr marked⟩
        · exact ⟨same.le, .inl same⟩
      · rw [marks m] at marked
        rw [high]
        obtain ⟨marked | ⟨same, nonzero⟩, near⟩ := marked
        · have := inWindow m marked
          omega
        · omega
      · rw [high, Nat.max_eq_right above.le]
    · obtain ⟨high, marks⟩ := mark_below w s below
      refine ⟨fun stillNew => ?_, fun q positive' notNew stillNew => notNew ?_, fun q _ other told => ?_,
        fun m marked => ?_, ?_, fun above => absurd below (Nat.lt_asymm above), fun _ => marks⟩
      · rw [high, marks s] at stillNew
        obtain above | ⟨-, unmarked, -⟩ := stillNew
        · exact Nat.lt_asymm below above
        · exact unmarked (.inr rfl)
      · rw [high, marks q] at stillNew
        obtain above | ⟨below, unmarked, near⟩ := stillNew
        · exact .inl above
        · exact .inr ⟨below, fun marked => unmarked (.inl marked), near⟩
      · rw [high, marks q] at told
        obtain ⟨le, same | marked | same⟩ := told
        · exact ⟨le, .inl same⟩
        · exact ⟨le, .inr marked⟩
        · exact absurd same other
      · rw [marks m] at marked
        rw [high]
        obtain marked | rfl := marked
        · exact inWindow m marked
        · exact ⟨below, near, positive⟩
      · rw [high, Nat.max_eq_left below.le]

/-! ## The evaluation (R55 to R60) -/

theorem issueExpired_iff (c : DayClock) (age : Nat) (issue : Int) :
    issueExpired c age issue = true
      ↔ issue < 0 ∨ 65535 < issue ∨ (c.condition = .running ∧ issue < c.day - age) := by
  simp [issueExpired, or_assoc]

theorem resolveIssueDay_spec (c : DayClock) (field : Nat) (low high : Int)
    (running : c.condition = .running → low = c.day - 1015 ∧ high = c.day + 8)
    (lost : c.condition = .lost → low = c.day - 511 ∧ high = c.day + 512) :
    (resolveIssueDay c field - field) % 1024 = 0 ∧ low ≤ resolveIssueDay c field ∧ resolveIssueDay c field ≤ high
      ∧ ∀ d : Int, (d - field) % 1024 = 0 → low ≤ d → d ≤ high → d = resolveIssueDay c field := by
  unfold resolveIssueDay
  cases condition : c.condition with
  | running =>
    obtain ⟨rfl, rfl⟩ := running condition
    dsimp only
    refine ⟨by omega, by omega, by omega, fun d congruent atLeast atMost => by omega⟩
  | lost =>
    obtain ⟨rfl, rfl⟩ := lost condition
    dsimp only
    refine ⟨by omega, by omega, by omega, fun d congruent atLeast atMost => by omega⟩

/-- An evaluation past the issue day and the value's range, on the working copy that the outcome gives. -/
theorem evaluate_valid (f : Settings) (c : DayClock) (failed : Bool) (a : Account) (k : TokenKind) (n : BitVec 66)
    (issue : Int) (o : AnchorOutcome) (w : Charged)
    (resolved : issue = resolveIssueDay c (tokenDayField n)) (current : issueExpired c f.acceptAge issue = false)
    (valid : valueValid k (tokenValue n) = true)
    (outcome : o = anchorFor (tariffOf f a.activeTariff) c.time k issue.toNat (tokenValue n))
    (copy : w = workingCopy f o a) :
    evaluate f c failed a k n =
      if applicable f k (tokenValue n) w.acct = false then .error .notApplicable
      else if (creditOf f k (tokenValue n) w.acct).any (fun credit => overflows credit w.acct) then
        .error .wouldOverflow
      else if failed then .error .notDurable
      else .ok ⟨⟨tokenKind n, tokenSerial n, tokenValue n, issue.toNat, o⟩, entryTime o c.time,
        applyToken f k (tokenValue n) w.acct, w.lowCredit, w.tariffApplied⟩ := by
  subst copy outcome resolved
  unfold evaluate
  dsimp only
  rw [if_neg (by rw [current]; decide), if_neg (by rw [valid]; decide)]
  simp only [Bool.not_eq_true']

theorem entryTime_move (target : ClockTime) (m : Nat) (crossing : Bool) (now : ClockTime) (o : AnchorOutcome)
    (move : o = .move target m crossing) : entryTime o now = target := by
  rw [move, entryTime]

theorem entryTime_stays (now : ClockTime) (o : AnchorOutcome)
    (stays : ∀ target m crossing, o ≠ .move target m crossing) : entryTime o now = now := by
  cases o with
  | move target m crossing => exact absurd rfl (stays target m crossing)
  | _ => rfl

theorem valueValid_ranges (v : Nat) :
    (valueValid .addCredit v = true ↔ 1 ≤ v % 4096) ∧ (valueValid .forgiveDebt v = true ↔ 1 ≤ v % 4096)
      ∧ (valueValid .addDays v = true ↔ 1 ≤ v) ∧ (valueValid .setTariff v = true ↔ 1 ≤ v)
      ∧ (valueValid .payOff v = true ↔ v = 0) ∧ (valueValid .relock v = true ↔ v = 0)
      ∧ (valueValid .setTime v = true ↔ v ≤ 1439) ∧ (valueValid .grantGrace v = true ↔ 1 ≤ v ∧ v ≤ 7) := by
  simp only [valueValid, decide_eq_true_eq, iff_self, and_self]

theorem credits_applicable (f : Settings) (w : Account) (v : Nat) :
    (applicable f .addCredit v w = true ↔ w.state ≠ .paidOff)
      ∧ (applicable f .addDays v w = true ↔ w.state ≠ .paidOff ∧ (tariffOf f w.activeTariff).standing ≠ 0)
      ∧ creditOf f .addCredit v w = some (v % 4096 * 10 ^ (v / 4096))
      ∧ creditOf f .addDays v w = some (v * (tariffOf f w.activeTariff).standing)
      ∧ (∀ k : TokenKind, k ≠ .addCredit → k ≠ .addDays → creditOf f k v w = none) := by
  refine ⟨by simp only [applicable, decide_eq_true_eq],
    by simp only [applicable, Bool.and_eq_true, decide_eq_true_eq], rfl, rfl, fun k notCredit notDays => ?_⟩
  cases k with
  | addCredit => exact absurd rfl notCredit
  | addDays => exact absurd rfl notDays
  | _ => rfl

/-- Settles O46: the resolution, the refusals in order, the ranges and the credits. -/
theorem evaluationOrder : Obligations.EvaluationOrder := by
  refine ⟨?_, valueValid_ranges, credits_applicable⟩
  intro f c failed a w k n issue low high o resolved running lost outcome copy
  replace copy : w = (workingCopy f o a).acct := by rw [copy]; cases o <;> rfl
  obtain ⟨congruent, atLeast, atMost, unique⟩ := resolveIssueDay_spec c (tokenDayField n) low high running lost
  rw [← resolved] at congruent atLeast atMost unique
  refine ⟨congruent, atLeast, atMost, unique, fun expired => ?_, fun atLeast0 inDays young => ?_⟩
  · rw [evaluate, ← resolved]
    exact if_pos ((issueExpired_iff c f.acceptAge issue).2 expired)
  have current : issueExpired c f.acceptAge issue = false := by
    rw [← Bool.not_eq_true, issueExpired_iff]
    rintro (negative | late | ⟨onTime, old⟩)
    · omega
    · omega
    · obtain condition | recent := young
      · rw [condition] at onTime
        cases onTime
      · omega
  refine ⟨fun badValue => ?_, fun valid => ?_⟩
  · unfold evaluate
    dsimp only
    rw [← resolved, if_neg (by rw [current]; decide), if_pos (by rw [badValue]; rfl)]
  have evaluated := evaluate_valid f c failed a k n issue o _ resolved current valid outcome rfl
  rw [← copy] at evaluated
  refine ⟨fun notApplicable => by rw [evaluated, if_pos notApplicable], fun applies => ?_⟩
  rw [if_neg (by rw [applies]; decide)] at evaluated
  refine ⟨fun ⟨credit, hasCredit, high⟩ => ?_, fun within => ?_⟩
  · rw [evaluated, hasCredit]
    exact if_pos (decide_eq_true high)
  have fits : ¬ (creditOf f k (tokenValue n) w).any (fun credit => overflows credit w) = true := by
    rw [Option.any_eq_true]
    rintro ⟨credit, hasCredit, high⟩
    exact absurd (within credit hasCredit) (not_le.2 (of_decide_eq_true high))
  rw [if_neg fits] at evaluated
  refine ⟨fun isFailed => by rw [evaluated, if_pos isFailed], fun sound => ?_⟩
  rw [if_neg (by rw [sound]; decide)] at evaluated
  exact ⟨_, evaluated, rfl, rfl, rfl, Int.toNat_of_nonneg atLeast0, rfl, rfl,
    fun target m crossing move => entryTime_move target m crossing _ o move, entryTime_stays _ o⟩

/-! ## Records (R156, R157) -/

theorem record_isFor_iff (dest serial : Nat) (r : RelayRecord) :
    r.isFor dest serial = true ↔ r.destination = dest ∧ tokenSerial r.token = serial := by
  simp [RelayRecord.isFor]

theorem any_record_iff (dest serial : Nat) (xs : List RelayRecord) :
    xs.any (RelayRecord.isFor dest serial) = true ↔ ∃ r ∈ xs, r.destination = dest ∧ tokenSerial r.token = serial := by
  simp only [List.any_eq_true, record_isFor_iff]

theorem any_receipt_iff (kit serial : Nat) (xs : List Receipt) :
    xs.any (Receipt.isFor kit serial) = true ↔ ∃ r ∈ xs, r.kit = kit ∧ r.serial = serial := by
  simp only [List.any_eq_true, receipt_isFor_iff]

theorem mergeHop_eq (dest serial hop : Nat) (xs : List RelayRecord) :
    mergeHop dest serial hop xs = xs.map (fun r =>
      if r.destination = dest ∧ tokenSerial r.token = serial then { r with hop := min r.hop hop } else r) := by
  simp only [mergeHop, record_isFor_iff]

theorem removeRecord_eq (dest serial : Nat) (xs : List RelayRecord) :
    removeRecord dest serial xs = xs.filter (fun r => ¬(r.destination = dest ∧ tokenSerial r.token = serial)) := by
  refine List.filter_congr fun r _ => ?_
  rw [Bool.eq_iff_iff, Bool.not_eq_true', ← Bool.not_eq_true, record_isFor_iff, decide_eq_true_eq]

/-- The record ahead of its list goes first when none behind it goes before it. -/
theorem victim_head (v : RelayRecord) (after : List RelayRecord)
    (behind : ∀ r ∈ after, r.hop < v.hop ∨ (r.hop = v.hop ∧ r.offers ≤ v.offers)) : victim (v :: after) = some v := by
  unfold victim
  cases found : victim after with
  | none => rfl
  | some u =>
    have goes : v.goesBefore u = true := by
      rcases behind u (victim_mem after u found) with less | ⟨same, fewer⟩
      · simp [RelayRecord.goesBefore, less]
      · simp [RelayRecord.goesBefore, same, fewer]
    dsimp only
    rw [if_pos goes]

theorem victim_append (before after : List RelayRecord) (v : RelayRecord)
    (ahead : ∀ r ∈ before, r.hop < v.hop ∨ (r.hop = v.hop ∧ r.offers < v.offers))
    (behind : ∀ r ∈ after, r.hop < v.hop ∨ (r.hop = v.hop ∧ r.offers ≤ v.offers)) :
    victim (before ++ v :: after) = some v := by
  induction before with
  | nil => exact victim_head v after behind
  | cons r rest ih =>
    have stays : ¬ r.goesBefore v = true := by
      rcases ahead r (.head _) with less | ⟨same, fewer⟩
      · simp [RelayRecord.goesBefore]
        omega
      · simp [RelayRecord.goesBefore]
        omega
    rw [List.cons_append, victim, ih fun x hx => ahead x (.tail _ hx)]
    dsimp only
    rw [if_neg stays]

theorem removeRecord_append (before after : List RelayRecord) (v : RelayRecord)
    (distinct : ∀ r ∈ before ++ after, ¬(r.destination = v.destination ∧ tokenSerial r.token = tokenSerial v.token)) :
    removeRecord v.destination (tokenSerial v.token) (before ++ v :: after) = before ++ after := by
  rw [removeRecord_eq, List.filter_append, List.filter_cons_of_neg (by simp), ← List.filter_append, List.filter_eq_self]
  exact fun r hr => decide_eq_true (distinct r hr)

/-- Settles O50: the branches of a record's evaluation, in order. -/
theorem recordsAreEvaluated : Obligations.RecordsAreEvaluated := by
  intro day x dest tok issue expiry hop env
  unfold evaluateRecord
  dsimp only
  refine ⟨fun limit => if_pos limit, fun notLimit delivered => ?_, fun notLimit undelivered => ?_⟩
  · rw [if_neg notLimit, if_pos ((any_receipt_iff _ _ _).2 delivered)]
  rw [if_neg notLimit, if_neg (by rw [any_receipt_iff]; rintro ⟨r, hr, isFor⟩; exact undelivered r hr isFor)]
  refine ⟨fun held => ?_, fun fresh => ?_⟩
  · rw [if_pos ((any_record_iff _ _ _).2 held), mergeHop_eq]
  rw [if_neg (by rw [any_record_iff]; rintro ⟨r, hr, isFor⟩; exact fresh r hr isFor)]
  refine ⟨fun room => if_pos room, fun before v after split full distinct ahead behind => ?_⟩
  rw [if_neg (Nat.not_lt.2 full), split, victim_append before after v ahead behind]
  dsimp only
  rw [removeRecord_append before after v distinct]
  rfl

end Sys2Proof.Machine
end

section
/-! Power: the reset state, the loss of supply and the power-ups (O6, O59, O60). -/

namespace Sys2Proof.Machine

/-- Settles O6: the start values meet every rule. -/
theorem resetIsFreshlyPowered : Obligations.ResetIsFreshlyPowered := by
  refine ⟨rfl, rfl, rfl, rfl, rfl, rfl, (by decide), rfl, rfl, ?_, fun _ => ⟨by decide, by decide, by decide, by decide⟩,
    ⟨.nil, (nomatch ·, ·)⟩, by decide, by decide,
    by decide, by decide, ?_⟩
  · exact ⟨trivial, trivial, by decide, (nomatch ·, ·), trivial, trivial, (nomatch ·, ·), trivial⟩
  · exact ⟨⟨fun both => (nomatch both.1), fun _ => rfl, fun _ => rfl⟩, fun _ => rfl⟩

/-! ## The core without power (R125, R126) -/

theorem coreOff_settled (s : State) : Settled (coreOff s) :=
  ⟨⟨fun both => (nomatch both.1), fun _ => rfl, fun _ => rfl⟩, fun both => (nomatch both.1)⟩

theorem same_get {α : Type} (x : α) (i : Fin 4) : (PerPort.same x).get i = x := by
  fin_cases i <;> rfl

/-- What a cut write leaves of the flash: its slot damaged once a byte had been programmed, and every other as it was. -/
theorem cutOperation_write (cut : FlashCut) (s : State) (e : Entry) (wf : FlashWf s.flash)
    (writing : s.journal.op = .write e ∨ s.journal.op = .head e) (k : Nat) :
    flashRead (cutOperation cut s).flash k =
      if k = s.journal.sector * 60 + s.journal.nextSlot ∧ cut.programmed = true then .damaged
      else flashRead s.flash k := by
  have cuts : cutOperation cut s = if cut.programmed then
      { s with flash := flashWrite s.flash (slotNumber s.journal.sector s.journal.nextSlot) .damaged } else s := by
    unfold cutOperation
    rcases writing with op | op
    · rw [op]
    · rw [op]
  cases programmed : cut.programmed with
  | false => simp [cuts, programmed]
  | true => simp [cuts, programmed, flashRead_flashWrite _ wf, slotNumber]

/-- What a cut erase leaves of the flash: the other sectors as they were. -/
theorem cutOperation_erase (cut : FlashCut) (s : State) (sector : Nat) (wf : FlashWf s.flash)
    (erasing : s.journal.op = .erase sector) (k : Nat) (other : k / 60 ≠ sector) :
    flashRead (cutOperation cut s).flash k = flashRead s.flash k := by
  have left : flashRead (leaveSlots s.flash sector cut.eraseLeft 60) k = flashRead s.flash k := by
    rw [flashRead_leaveSlots _ wf, if_neg (by omega)]
  have cuts : (cutOperation cut s).flash = flashEraseCut s.flash sector cut.eraseLeft := by
    simp only [cutOperation, erasing]
  rw [cuts, flashEraseCut]
  split
  · rw [flashRead_flashWrite _ (leaveSlots_wf _ _ _ _ wf), slotNumber, if_neg (by omega), left]
  · exact left

theorem coreReset_idle (p : Provisioning) : p.coreReset.phase = .idle ∧ p.coreReset.request = none := by
  unfold Provisioning.coreReset
  split
  · exact ⟨rfl, rfl⟩
  · exact ⟨rfl, rfl⟩

theorem coreReset_programming (p : Provisioning) (f : Settings) (programming : p.phase = .programming f) :
    p.coreReset.otp = .spoiled := by
  simp only [Provisioning.coreReset, programming]

theorem loseSupply_off (cut : FlashCut) (s : State) (off : s.supply.power = .off) : loseSupply cut s = s := if_pos off

theorem loseSupply_on (cut : FlashCut) (s : State) (on : s.supply.power ≠ .off) :
    loseSupply cut s = coreOff (cutOperation cut s) := if_neg on

/-- Settles O59: the core at its start values, and the flash changed only where it was being worked on. -/
theorem supplyIsLost : Obligations.SupplyIsLost := by
  intro cut s settled
  refine ⟨fun off => exec_settled _ _ _ _ rfl (loseSupply_off cut s off) settled, fun on wf => ?_⟩
  have kept : (cutOperation cut s).provisioning = s.provisioning := by rw [cutOperation_eq]
  refine ⟨_, exec_settled _ _ _ _ rfl (loseSupply_on cut s on) (coreOff_settled _), rfl, rfl,
    fun i => congrArg Port.duty (same_get Port.start i), rfl, rfl, rfl, rfl, rfl, rfl, ?_,
    fun idle => show (cutOperation cut s).flash = s.flash by rw [cutOperation_none cut s idle],
    fun e writing k => cutOperation_write cut s e wf writing k,
    fun sector erasing k other => cutOperation_erase cut s sector wf erasing k other, fun settledRecord => ?_,
    fun f programming => ?_, ?_, ?_⟩
  · show (cutOperation cut s).domain = s.domain
    rw [cutOperation_eq]
  · exact (congrArg (fun p => p.coreReset.otp) kept).trans (coreReset_otp _ settledRecord)
  · exact (congrArg (fun p => p.coreReset.otp) kept).trans (coreReset_programming _ f programming)
  · exact (coreReset_idle _).1
  · exact (coreReset_idle _).2

/-! ## The power-ups (R72, R128, R175) -/

/-- A record with its check is judged VALID exactly when the check is that of its fields (R175). -/
theorem judgeRecord_valid_iff (otp : Otp) (written : ∃ f check, otp = .written f check) :
    judgeRecord otp = .valid ↔ ∃ f, otp = .written f (recordCheck f) := by
  obtain ⟨f, check, rfl⟩ := written
  unfold judgeRecord
  by_cases matching : check = recordCheck f
  · simp [matching]
  · simp only [if_neg matching, reduceCtorEq, false_iff]
    rintro ⟨g, same⟩
    cases same
    exact matching rfl

/-- Without its clock domain a part with the core off has nothing to take up. -/
theorem withoutDomain_settled (s : State) (settled : Settled s) : Settled { s with domain := .off } := by
  obtain ⟨⟨tokens, -, journal⟩, link⟩ := settled
  exact ⟨⟨tokens, fun both => (nomatch both.2), journal⟩, link⟩

/-- Settles O60: the domain's power-up and loss, and the core's power-up. -/
theorem theDomainAndTheCorePowerUp : Obligations.TheDomainAndTheCorePowerUp := by
  refine ⟨fun s settled => ⟨fun powered => ?_, fun unpowered => ?_⟩, fun cut s settled => ⟨fun off => ?_, fun on => ?_⟩,
    fun s settled => ⟨fun off powered => ?_, fun already => ?_⟩⟩
  · exact exec_settled _ _ _ _ rfl (if_pos powered) settled
  · have comes : domainPowersUp s = { s with domain := .fresh } := if_neg (by rw [unpowered]; decide)
    obtain ⟨⟨tokens, -, journal⟩, link⟩ := settled
    exact ⟨_, exec_settled _ _ _ _ rfl comes ⟨⟨tokens, fun both => (nomatch both.2), journal⟩, link⟩,
      rfl, rfl, rfl, rfl, rfl⟩
  · have comes : domainPowersDown cut s = { s with domain := .off } := by rw [domainPowersDown, loseSupply_off cut s off]
    exact exec_settled _ _ _ _ rfl comes (withoutDomain_settled s settled)
  · have comes : domainPowersDown cut s = { coreOff (cutOperation cut s) with domain := .off } := by
      rw [domainPowersDown, loseSupply_on cut s on]
    exact ⟨_, exec_settled _ _ _ _ rfl comes (withoutDomain_settled _ (coreOff_settled _)), rfl, rfl, rfl, rfl⟩
  · refine ⟨_, exec_settled _ _ _ _ rfl (if_pos ⟨off, powered⟩) (corePowerUp_settled s), rfl, rfl, rfl, rfl, rfl, rfl, rfl,
      same_get Port.start, rfl, rfl, rfl, rfl, rfl, fun written notProgramming => ?_⟩
    have condition : (corePowerUp s).provisioning.condition = judgeRecord s.provisioning.otp :=
      congrArg judgeRecord (coreReset_otp _ notProgramming)
    rw [condition]
    exact judgeRecord_valid_iff _ written
  · refine exec_settled _ _ _ _ rfl (if_neg ?_) settled
    rintro ⟨off, powered⟩
    rcases already with on | unpowered
    · exact on off
    · rw [unpowered] at powered
      cases powered

end Sys2Proof.Machine
end

section
/-! Byte layouts: the STATUS body and the record's fields (O8, O9). -/

namespace Sys2Proof.Machine

/-! ## Fields of a body laid out in order (Section 12.1) -/

theorem fieldAt_cons_skip (b : Byte) (rest : List Byte) (o n : Nat) (h : 1 ≤ o) :
    fieldAt (b :: rest) o n = fieldAt rest (o - 1) n := by
  obtain ⟨k, rfl⟩ := Nat.exists_eq_add_of_le' h
  rfl

theorem boolByte_toNat (b : Bool) : (boolByte b).toNat = b.toNat := by
  cases b <;> rfl

/-! ## STATUS (Table 12-7) -/

/-- The STATUS body after the account group, offsets 42 to 71. -/
def statusTail (s : State) : List Byte :=
  timeBytes s.domain.clock.time ++ [s.domain.clock.condition.code, s.domain.clock.source.code]
    ++ natBytes 2 s.domain.clock.hold ++ natBytes 2 s.supply.battery ++ natBytes 1 s.supply.shedLevel
    ++ [s.supply.power.code] ++ s.switches.ports.bytes (fun p => [p.state.code]) ++ [s.journal.state.code]
    ++ natBytes 1 s.tokens.intake.length ++ natBytes 1 s.relay.records.length
    ++ natBytes 1 s.relay.receipts.length ++ natBytes 2 s.domain.penalty.waitRemaining
    ++ relayOutcomeBytes s.tokens.lastRelay ++ natBytes 2 s.link.overruns ++ natBytes 2 s.link.errors

/-- The account group of a STATUS body, zeros while the account is not loaded. -/
def statusGroup (s : State) : List Byte :=
  if s.account.loaded then accountGroup (tariffOf s.provisioning.settings s.account.acct.activeTariff) s.account.acct
  else natBytes 40 0

theorem statusBody_eq (s : State) :
    statusBody s = 0 :: boolByte s.account.loaded :: (statusGroup s ++ statusTail s) := by
  simp only [statusBody, statusGroup, statusTail, ReplyResult.code, List.append_assoc]

theorem accountGroup_length (t : Tariff) (a : Account) : (accountGroup t a).length = 40 := by
  simp [accountGroup]

theorem statusGroup_length (s : State) : (statusGroup s).length = 40 := by
  unfold statusGroup
  split
  · exact accountGroup_length _ _
  · exact natBytes_length _ _

theorem relayOutcomeBytes_length (o : Option RelayOutcome) : (relayOutcomeBytes o).length = 4 := by
  cases o with
  | none => rfl
  | some o => simp [relayOutcomeBytes]

theorem statusTail_length (s : State) : (statusTail s).length = 30 := by
  simp [statusTail, timeBytes, PerPort.bytes, relayOutcomeBytes_length]

theorem statusBody_tail (s : State) (o n : Nat) : fieldAt (statusBody s) (o + 42) n = fieldAt (statusTail s) o n := by
  rw [statusBody_eq, fieldAt_cons_skip _ _ _ _ (by omega), fieldAt_cons_skip _ _ _ _ (by omega),
    fieldAt_skip _ _ _ _ (by rw [statusGroup_length]; omega), statusGroup_length]
  rfl

theorem statusBody_group (s : State) (o n : Nat) (within : o + n ≤ 40) :
    fieldAt (statusBody s) (o + 2) n = fieldAt (statusGroup s) o n := by
  rw [statusBody_eq, fieldAt_cons_skip _ _ _ _ (by omega), fieldAt_cons_skip _ _ _ _ (by omega),
    fieldAt_left _ _ _ _ (by rw [statusGroup_length]; omega)]
  rfl

/-- The account group's fields. -/
theorem accountGroup_fields (t : Tariff) (a : Account) :
    fieldAt (accountGroup t a) 0 1 = a.state.code.toNat
      ∧ fieldAt (accountGroup t a) 1 4 = a.balance % 2 ^ 32
      ∧ fieldAt (accountGroup t a) 5 2 = a.debt % 2 ^ 16
      ∧ fieldAt (accountGroup t a) 7 4 = (daysRemaining t a).getD 4294967295 % 2 ^ 32
      ∧ fieldAt (accountGroup t a) 11 2 = a.graceBudget % 2 ^ 16
      ∧ fieldAt (accountGroup t a) 13 1 = a.graceArmed.toNat
      ∧ fieldAt (accountGroup t a) 14 1 = a.activeTariff % 2 ^ 8
      ∧ fieldAt (accountGroup t a) 15 1 = a.stagedTariff.getD 0 % 2 ^ 8
      ∧ fieldAt (accountGroup t a) 16 6 = a.ct % 2 ^ 48
      ∧ fieldAt (accountGroup t a) 22 6 = a.ht % 2 ^ 48
      ∧ fieldAt (accountGroup t a) 28 6 = a.ft % 2 ^ 48
      ∧ fieldAt (accountGroup t a) 34 6 = a.vt % 2 ^ 48 := by
  simp [accountGroup, fieldAt_skip, fieldAt_cons_skip, fieldAt_head, fieldAt_natBytes_append, fieldAt_natBytes,
    boolByte_toNat]

/-- The fields after the account group. -/
theorem statusTail_fields (s : State) :
    fieldAt (statusTail s) 0 2 = s.domain.clock.day % 2 ^ 16
      ∧ fieldAt (statusTail s) 2 2 = s.domain.clock.minute % 2 ^ 16
      ∧ fieldAt (statusTail s) 4 1 = s.domain.clock.condition.code.toNat
      ∧ fieldAt (statusTail s) 5 1 = s.domain.clock.source.code.toNat
      ∧ fieldAt (statusTail s) 6 2 = s.domain.clock.hold % 2 ^ 16
      ∧ fieldAt (statusTail s) 8 2 = s.supply.battery % 2 ^ 16
      ∧ fieldAt (statusTail s) 10 1 = s.supply.shedLevel % 2 ^ 8
      ∧ fieldAt (statusTail s) 11 1 = s.supply.power.code.toNat
      ∧ fieldAt (statusTail s) 16 1 = s.journal.state.code.toNat
      ∧ fieldAt (statusTail s) 17 1 = s.tokens.intake.length % 2 ^ 8
      ∧ fieldAt (statusTail s) 18 1 = s.relay.records.length % 2 ^ 8
      ∧ fieldAt (statusTail s) 19 1 = s.relay.receipts.length % 2 ^ 8
      ∧ fieldAt (statusTail s) 20 2 = s.domain.penalty.waitRemaining % 2 ^ 16
      ∧ fieldAt (statusTail s) 26 2 = s.link.overruns % 2 ^ 16
      ∧ fieldAt (statusTail s) 28 2 = s.link.errors % 2 ^ 16 := by
  simp [statusTail, timeBytes, PerPort.bytes, DayClock.time, relayOutcomeBytes_length, fieldAt_skip, fieldAt_cons_skip,
    fieldAt_head, fieldAt_natBytes_append, fieldAt_natBytes]

theorem statusTail_port (s : State) (i : Fin 4) :
    fieldAt (statusTail s) (12 + i.val) 1 = (s.switches.ports.get i).state.code.toNat := by
  fin_cases i <;>
    simp [statusTail, timeBytes, PerPort.bytes, PerPort.get, fieldAt_skip, fieldAt_cons_skip, fieldAt_head]

theorem statusTail_relay (s : State) (o n : Nat) (within : o + n ≤ 4) :
    fieldAt (statusTail s) (o + 22) n = fieldAt (relayOutcomeBytes s.tokens.lastRelay) o n := by
  rw [← fieldAt_left (relayOutcomeBytes s.tokens.lastRelay) (natBytes 2 s.link.overruns ++ natBytes 2 s.link.errors) o n
    (by rw [relayOutcomeBytes_length]; exact within)]
  simp [statusTail, timeBytes, PerPort.bytes, fieldAt_skip, fieldAt_cons_skip]

/-- The field of the days that remain: all ones where there is no count of them (R40). -/
theorem daysRemaining_field (t : Tariff) (a : Account) :
    (daysRemaining t a).getD 4294967295 % 2 ^ 32 =
      if t.standing = 0 ∨ a.state = .paidOff ∨ a.state = .unprovisioned then 4294967295
      else a.balance / t.standing % 2 ^ 32 := by
  unfold daysRemaining
  by_cases free : t.standing = 0
  · rw [if_pos free, if_pos (.inl free)]
    rfl
  · rw [if_neg free]
    cases a.state with
    | paidOff => rw [if_pos (.inr (.inl rfl))]; rfl
    | unprovisioned => rw [if_pos (.inr (.inr rfl))]; rfl
    | _ => simp [free]

/-- Settles O9: the body is its first two bytes, the account group, and the tail. -/
theorem statusLayout : Obligations.StatusLayout := by
  rintro s t rfl
  obtain ⟨day, minute, condition, source, hold, battery, shed, power, journal, intake, records, receipts, wait, overruns,
    errors⟩ := statusTail_fields s
  have tail := statusBody_tail s
  have group := statusBody_group s
  refine ⟨?_, ?_, fun loaded => ?_, fun unloaded => ?_, (tail 0 2).trans day, (tail 2 2).trans minute, ?_, ?_,
    (tail 6 2).trans hold, (tail 8 2).trans battery, (tail 10 1).trans shed, fun starting => ?_, fun run => ?_, fun i => ?_,
    (tail 16 1).trans journal, (tail 17 1).trans intake, (tail 18 1).trans records, (tail 19 1).trans receipts,
    (tail 20 2).trans wait, fun absent => ?_, fun o present => ?_, (tail 26 2).trans overruns, (tail 28 2).trans errors⟩
  · rw [statusBody_eq]
    simp [statusGroup_length, statusTail_length]
  · rw [statusBody_eq]
    cases s.account.loaded <;> rfl
  · obtain ⟨state, balance, debt, days, budget, armed, active, staged, ct, ht, ft, vt⟩ := accountGroup_fields
      (tariffOf s.provisioning.settings s.account.acct.activeTariff) s.account.acct
    have isGroup : statusGroup s = _ := if_pos loaded
    rw [isGroup] at group
    refine ⟨(group 0 1 (by decide)).trans state, (group 1 4 (by decide)).trans balance, (group 5 2 (by decide)).trans debt,
      ?_, (group 11 2 (by decide)).trans budget, (group 13 1 (by decide)).trans armed,
      (group 14 1 (by decide)).trans active, fun none => ?_, fun n staged' => ?_, (group 16 6 (by decide)).trans ct,
      (group 22 6 (by decide)).trans ht, (group 28 6 (by decide)).trans ft, (group 34 6 (by decide)).trans vt⟩
    · rw [group 7 4 (by decide), days]
      exact daysRemaining_field _ _
    · rw [group 15 1 (by decide), staged, none]
      rfl
    · rw [group 15 1 (by decide), staged, staged']
      rfl
  · have isGroup : statusGroup s = _ := if_neg (by rw [unloaded]; decide)
    rw [group 0 40 (by decide), isGroup, fieldAt_natBytes, Nat.zero_mod]
  · rw [tail 4 1, condition]
    cases s.domain.clock.condition <;> rfl
  · rw [tail 5 1, source]
    cases s.domain.clock.source <;> rfl
  · rw [tail 11 1, power, starting]
    rfl
  · rw [tail 11 1, power, run]
    rfl
  · rw [show 54 + i.val = 12 + i.val + 42 by omega, tail, statusTail_port]
  · rw [tail 22 4, statusTail_relay s 0 4 (by decide), absent]
    exact (fieldAt_natBytes 4 0).trans (Nat.zero_mod _)
  · rw [tail 22 1, tail 23 2, tail 25 1, statusTail_relay s 0 1 (by decide), statusTail_relay s 1 2 (by decide),
      statusTail_relay s 3 1 (by decide), present]
    simp [relayOutcomeBytes, fieldAt_skip, fieldAt_natBytes_append, fieldAt_head]

/-! ## The record's fields (Tables 12-11 and 12-12) -/

theorem tariffBytes_length (t : Tariff) : (tariffBytes t).length = 21 := by
  simp [tariffBytes, PerPort.bytes]

theorem settingsBytes_eq (f : Settings) : settingsBytes f = (settingsBytes { f with tariffs := [] }) ++ f.tariffs.flatMap
  tariffBytes := by
  simp [settingsBytes]

/-- The portion before the tariffs has 72 bytes. -/
theorem settingsHead_length (f : Settings) : (settingsBytes { f with tariffs := [] }).length = 72 := by
  simp [settingsBytes, PerPort.bytes, timeBytes]

theorem fieldAt_flatMap (ts : List Tariff) (i o n : Nat) (t : Tariff) (h : ts[i]? = some t) (within : o + n ≤ 21) :
    fieldAt (ts.flatMap tariffBytes) (21 * i + o) n = fieldAt (tariffBytes t) o n := by
  induction ts generalizing i with
  | nil => cases h
  | cons x rest ih =>
    rw [List.flatMap_cons]
    cases i with
    | zero =>
      cases h
      rw [fieldAt_left _ _ _ _ (by rw [tariffBytes_length]; omega), Nat.mul_zero, Nat.zero_add]
    | succ i =>
      rw [fieldAt_skip _ _ _ _ (by rw [tariffBytes_length]; omega), tariffBytes_length,
        show 21 * (i + 1) + o - 21 = 21 * i + o by omega]
      exact ih i h

theorem portSets_read (a b : PerPort Bool) :
    portSetOf ((portSetBits a + 16 * portSetBits b) % 256) 0 = a ∧ portSetOf ((portSetBits a + 16 * portSetBits b) % 256) 4
      = b := by
  obtain ⟨a0, a1, a2, a3⟩ := a
  obtain ⟨b0, b1, b2, b3⟩ := b
  revert a0 a1 a2 a3 b0 b1 b2 b3
  decide

theorem key_read (k : BitVec 128) : BitVec.ofNat 128 (k.toNat % 340282366920938463463374607431768211456) = k := by
  rw [Nat.mod_eq_of_lt k.isLt, BitVec.ofNat_toNat, BitVec.setWidth_eq]

theorem trim_read (r : Int) (low : -128 ≤ r) (high : r ≤ 127) : (BitVec.ofNat 8 (r % 256).toNat).toInt = r := by
  rw [BitVec.toInt_eq_toNat_cond, BitVec.toNat_ofNat]
  omega

theorem testBit_seven (v : Nat) : (v % 256).testBit 7 = true ↔ 128 ≤ v % 256 := by
  rw [Nat.testBit_eq_decide_div_mod_eq, decide_eq_true_eq]
  omega

theorem readTariff_tariffBytes (t : Tariff) (number : t.number < 2 ^ 8) (standing : t.standing < 2 ^ 24)
    (prices : ∀ i, t.prices.get i < 2 ^ 16) (allowance : t.allowance < 2 ^ 24) (graceDays : t.graceDays < 8)
    (graceDuty : t.graceDuty < 2 ^ 16) (debtLimit : t.debtLimit < 2 ^ 16) (catchUpCap : t.catchUpCap < 8) :
    readTariff (tariffBytes t) 0 = t := by
  obtain ⟨number', standing', ⟨p0, p1, p2, p3⟩, allowance', graceDays', graceDuty', gracePorts, debtLimit', portSet,
    cap, mode⟩ := t
  have h0 := prices 0
  have h1 := prices 1
  have h2 := prices 2
  have h3 := prices 3
  dsimp only at number standing allowance graceDays graceDuty debtLimit catchUpCap
  obtain ⟨ports, gracePorts'⟩ := portSets_read portSet gracePorts
  have modeBit : (if ((graceDays' + 8 * cap + 128 * mode.bit) % 256).testBit 7 then ClockMode.service
      else ClockMode.calendar) = mode := by
    cases mode with
    | calendar => rw [if_neg (by rw [testBit_seven, ClockMode.bit]; omega)]
    | service => rw [if_pos (by rw [testBit_seven, ClockMode.bit]; omega)]
  have small : mode.bit ≤ 1 := by cases mode <;> decide
  simp only [PerPort.get] at h0 h1 h2 h3
  simp [readTariff, tariffBytes, PerPort.bytes, fieldAt_skip, fieldAt_natBytes_append, fieldAt_natBytes, ports, gracePorts',
    modeBit]
  omega

/-- A tariff's entry in the record's bytes reads as the entry alone. -/
theorem readTariff_settingsBytes (f : Settings) (i : Nat) (t : Tariff) (h : f.tariffs[i]? = some t) :
    readTariff (settingsBytes f) (72 + 21 * i) = readTariff (tariffBytes t) 0 := by
  have entry (o n : Nat) (within : o + n ≤ 21) :
      fieldAt (settingsBytes f) (72 + 21 * i + o) n = fieldAt (tariffBytes t) o n := by
    rw [settingsBytes_eq, fieldAt_skip _ _ _ _ (by rw [settingsHead_length]; omega), settingsHead_length,
      show 72 + 21 * i + o - 72 = 21 * i + o by omega, fieldAt_flatMap _ _ _ _ _ h within]
  have first := entry 0 1 (by decide)
  rw [Nat.add_zero] at first
  simp only [readTariff, Nat.zero_add, first, entry _ _ (show 1 + 3 ≤ 21 by decide), entry _ _ (show 4 + 2 ≤ 21 by decide),
    entry _ _ (show 6 + 2 ≤ 21 by decide), entry _ _ (show 8 + 2 ≤ 21 by decide), entry _ _ (show 10 + 2 ≤ 21 by decide),
    entry _ _ (show 12 + 3 ≤ 21 by decide), entry _ _ (show 15 + 2 ≤ 21 by decide),
    entry _ _ (show 17 + 2 ≤ 21 by decide), entry _ _ (show 19 + 1 ≤ 21 by decide),
    entry _ _ (show 20 + 1 ≤ 21 by decide)]

/-- Settles O8: the fields before the tariffs, and the tariffs one by one. -/
theorem settingsRoundTrip : Obligations.SettingsRoundTrip := by
  intro f kit district index credit day minute ports f1 f2 f3 hysteresis cutoff margin age trimLow trimHigh count tariffs
  refine ⟨?_, ?_⟩
  · rw [settingsBytes_eq, List.length_append, settingsHead_length, List.length_flatMap,
      List.map_congr_left fun t _ => tariffBytes_length t, List.map_const', List.sum_replicate, count]
    rfl
  have readTariffs : tariffOffsets.map (readTariff (settingsBytes f)) = f.tariffs := by
    refine List.ext_getElem (by rw [count]; rfl) fun i _ inList => ?_
    obtain ⟨number, standing, prices, allowance, graceDays, graceDuty, debtLimit, cap⟩ := tariffs _ (List.getElem_mem inList)
    simp only [tariffOffsets, List.getElem_map, List.getElem_range]
    rw [readTariff_settingsBytes f i _ (List.getElem?_eq_getElem inList),
      readTariff_tariffBytes _ number standing prices allowance graceDays graceDuty debtLimit cap]
  have p0 := ports 0
  have p1 := ports 1
  have p2 := ports 2
  have p3 := ports 3
  obtain ⟨kitNumber, _, kitKey, districtKey, _, _, ⟨_, _⟩, ⟨_, _, _, _⟩, ⟨_, _, _, _⟩, _, _, _, _, _, _, _, _, _⟩ := f
  dsimp only at *
  simp only [PerPort.get] at p0 p1 p2 p3
  unfold readSettings
  rw [readTariffs]
  simp [settingsBytes, timeBytes, PerPort.bytes, fieldAt_skip, fieldAt_natBytes_append, fieldAt_head, key_read,
    trim_read _ trimLow trimHigh]
  omega
end Sys2Proof.Machine
end

section
/-! A token's check digest completed (O44, O45). -/

namespace Sys2Proof.Machine

/-! ## Replies to requests that were held (R169) -/

theorem completeReply_eq (r : Reply) (s : State) :
    completeReply r s = { s with link := (completeReply r s).link } := by
  unfold completeReply
  split <;> rfl

/-- A request that no break has cancelled has its reply queued, or waiting (R169). -/
theorem replied_answer (req : Request) (body : List Byte) (s : State) (awake : s.supply.power.awake = true)
    (wanted : req.id ∉ s.link.cancelled) : Replied ⟨req.id, req.tag, req.kind, body, false⟩ (answer req body s).link :=
  replied_completeReply _ _ s awake (.inl ⟨rfl, wanted⟩)

theorem Replied.pump {r : Reply} {l : Link} (h : Replied r l) : Replied r l.pump := by
  rwa [Replied, pump_replies, pump_completed]

theorem Replied.raise {r : Reply} {s : State} (h : Replied r s.link) (c : NoticeCause) : Replied r (raise c s).link := by
  rwa [Replied, raise_replies, raise_completed]

theorem awake_on {p : Power} (awake : p.awake = true) : p ≠ .off := by
  rintro rfl
  cases awake

/-! ## Entries settled (R63, R64) -/

theorem settleToken_ofKeypad (r : TokenResult) (x : List Byte) (s : State) (e : IntakeEntry) (rest : List IntakeEntry)
    (req : Request) (held : s.tokens.intake = e :: rest) (source : e.source = .keypad req) :
    settleToken r x s = answer req (tokenReply r (tokenKind e.token) (tokenSerial e.token) x)
      { s with tokens := { s.tokens with intake := rest, service := .idle } } := by
  unfold settleToken
  rw [held]
  dsimp only
  rw [source]

theorem settleToken_ofRelay (r : TokenResult) (x : List Byte) (s : State) (e : IntakeEntry) (rest : List IntakeEntry)
    (held : s.tokens.intake = e :: rest) (source : e.source = .relay) :
    settleToken r x s = raise .tokenDone { s with tokens := { s.tokens with
      intake := rest, service := .idle
      lastRelay := some ⟨tokenKind e.token, tokenSerial e.token, r⟩ } } := by
  unfold settleToken
  rw [held]
  dsimp only
  rw [source]

/-- A settled entry leaves the intake and the unit IDLE; else only the last relay result and the link can change. -/
theorem settleToken_eq (r : TokenResult) (x : List Byte) (s : State) (e : IntakeEntry) (rest : List IntakeEntry)
    (held : s.tokens.intake = e :: rest) :
    settleToken r x s = { s with
      tokens := { s.tokens with
        intake := rest, service := .idle, lastRelay := (settleToken r x s).tokens.lastRelay }
      link := (settleToken r x s).link } := by
  cases source : e.source with
  | keypad req =>
    rw [settleToken_ofKeypad r x s e rest req held source, answer, completeReply_eq]
  | relay =>
    rw [settleToken_ofRelay r x s e rest held source, raise_eq]

theorem settleToken_cancelled (r : TokenResult) (x : List Byte) (s : State) (i : Nat)
    (h : i ∈ (settleToken r x s).link.cancelled) : i ∈ s.link.cancelled := by
  unfold settleToken at h
  split at h
  · exact h
  · dsimp only at h
    split at h
    · have := cancelled_completeReply i _ _ h
      exact this
    · rwa [raise_cancelled] at h

/-- In RUN the oldest entry is taken into service: its check digest joins the list (R48, R68). -/
theorem serveTokens_takes (n : Nat) (s : State) (e : IntakeEntry) (rest : List IntakeEntry)
    (run : s.supply.power = .run) (idle : s.tokens.service = .idle) (held : s.tokens.intake = e :: rest)
    (taken : serviceStart s.domain.penalty e = none) :
    serveTokens (n + 1) s = { s with
      tokens := { s.tokens with service := .awaitDigest }
      digests := s.digests ++ [checkRequest s.provisioning.settings e.token] } := by
  rw [serveTokens_taken n s e rest run idle held taken]
  exact requestDigest_run _ { s with tokens.service := .awaitDigest } run

theorem serviceStart_none (p : Penalty) (e : IntakeEntry) (nonzero : tokenSerial e.token ≠ 0)
    (free : e.source = .relay ∨ p.waitRemaining = 0) : serviceStart p e = none := by
  rw [serviceStart, if_neg nonzero]
  rcases free with relay | noWait
  · rw [relay]
  · rw [noWait]
    cases e.source <;> rfl

theorem serviceStart_waits (p : Penalty) (e : IntakeEntry) (req : Request) (nonzero : tokenSerial e.token ≠ 0)
    (keypad : e.source = .keypad req) (waits : 0 < p.waitRemaining) :
    serviceStart p e = some (.penaltyWait, natBytes 2 p.waitRemaining) := by
  rw [serviceStart, if_neg nonzero, keypad]
  exact if_pos waits

/-! ## The check digest (R51, R66) -/

theorem tokenDigestDone_checks (s : State) (r : DigestRequest) (rest : List DigestRequest) (e : IntakeEntry)
    (more : List IntakeEntry) (digests : s.digests = r :: rest) (purpose : r.purpose = .tokenCheck)
    (service : s.tokens.service = .awaitDigest) (held : s.tokens.intake = e :: more) :
    tokenDigestDone s =
      checkToken e (decide (BitVec.ofNat 22 r.result = tokenCheck e.token)) { s with digests := rest } := by
  unfold tokenDigestDone
  rw [digests, held]
  exact if_pos ⟨purpose, service⟩

/-- The penalty state after a BAD_CHECK of a source (R51, R66). -/
def penaltyAfter (source : TokenSource) (p : Penalty) : Penalty :=
  match source with
  | .keypad _ => p.advance
  | .relay => p

/-- The part with the digest in service done and a penalty state, the entry it was for still in the intake. -/
def digestDone (rest : List DigestRequest) (penalty : Penalty) (s : State) : State :=
  { s with digests := rest, domain := { s.domain with penalty := penalty } }

theorem advancePenalty_eq (source : TokenSource) (rest : List DigestRequest) (s : State) :
    advancePenalty source { s with digests := rest } = digestDone rest (penaltyAfter source s.domain.penalty) s := by
  cases source <;> rfl

theorem tokenDigestDone_bad (s : State) (r : DigestRequest) (rest : List DigestRequest) (e : IntakeEntry)
    (more : List IntakeEntry) (digests : s.digests = r :: rest) (purpose : r.purpose = .tokenCheck)
    (service : s.tokens.service = .awaitDigest) (held : s.tokens.intake = e :: more)
    (bad : BitVec.ofNat 22 (Config.keyedDigest r.key r.fields) ≠ tokenCheck e.token) :
    tokenDigestDone s = settleToken .badCheck [] (digestDone rest (penaltyAfter e.source s.domain.penalty) s) := by
  rw [tokenDigestDone_checks s r rest e more digests purpose service held, ← advancePenalty_eq, DigestRequest.result,
    decide_eq_false bad]
  rfl

/-- The penalty after a keypad BAD_CHECK (R66, Table 3-5). -/
theorem advance_spec (p : Penalty) :
    p.advance.count = min (p.count + 1) 65535
      ∧ (p.count < 4 → p.advance.waitLength = p.waitLength ∧ p.advance.waitRemaining = p.waitRemaining)
      ∧ (p.count = 4 → p.advance.waitLength = 1 ∧ p.advance.waitRemaining = 60)
      ∧ (4 < p.count → p.advance.waitLength = min (2 * p.waitLength) 64
          ∧ p.advance.waitRemaining = 60 * min (2 * p.waitLength) 64) := by
  unfold Penalty.advance
  dsimp only
  split
  case isTrue low => exact ⟨rfl, fun _ => ⟨rfl, rfl⟩, fun four => by omega, fun high => by omega⟩
  case isFalse notLow =>
    refine ⟨rfl, fun low => by omega, fun four => ?_, fun high => ?_⟩
    · rw [if_pos (by omega)]
      exact ⟨rfl, rfl⟩
    · rw [if_neg (by omega)]
      exact ⟨rfl, Nat.mul_comm _ _⟩

/-- With a penalty state and a rest of digests the units are settled where they were, but for the intake. -/
theorem settleToken_unitsSettled (r : TokenResult) (x : List Byte) (s : State) (e : IntakeEntry)
    (held : s.tokens.intake = [e])
    (store : s.relay.service = none ∧ s.domain.clock.timeSet = true → s.relay.waiting = [])
    (journal : s.journal.failed = false ∧ s.journal.flushWait = false ∧ s.journal.op = .none → s.journal.queue = []) :
    UnitsSettled (settleToken r x s) := by
  rw [settleToken_eq r x s e [] held]
  exact ⟨fun _ => rfl, store, journal⟩

/-- A refused entry, with another behind it in RUN, is followed by what the next one's service makes. -/
theorem exec_refusedThenNext (i : Instr) (s x : State) (e next : IntakeEntry) (more : List IntakeEntry) (r : TokenResult)
    (extra : List Byte) (run : exec i s = .next (finish .tokenFirst (settleToken r extra x)))
    (held : x.tokens.intake = e :: next :: more) :
    exec i s = .next (finish .tokenFirst (serveTokens (more.length + 1) (settleToken r extra x))) := by
  rw [run, ← finish_settleTokens, settleTokens_eq_of_length (more.length + 1)]
  rw [settleToken_eq r extra x e _ held]
  rfl

/-- Settles O44: the refusal, and what the unit takes up after it. -/
theorem badChecksAreRefused : Obligations.BadChecksAreRefused := by
  refine ⟨fun r rest e s settled awake digests purpose service held bad => ⟨fun req source => ?_, fun source => ?_⟩,
    fun r rest e next more penalty s settled run digests purpose service held bad nonzero isPenalty => ?_⟩
  · have refused := tokenDigestDone_bad s r rest e [] digests purpose service held bad
    rw [source] at refused
    have units := settleToken_unitsSettled .badCheck [] (digestDone rest (penaltyAfter (.keypad req) s.domain.penalty) s) e
      held settled.1.2.1 settled.1.2.2
    have comes := exec_unitsSettled .tokenCheckDigestDone s _ _ rfl refused units
    obtain ⟨count, low, four, high⟩ := advance_spec s.domain.penalty
    rw [settleToken_ofKeypad .badCheck [] (digestDone rest (penaltyAfter (.keypad req) s.domain.penalty) s) e [] req held source,
      answer, completeReply_eq] at comes
    exact ⟨_, comes, rfl, rfl, count, low, four, high,
      fun wanted => Replied.pump (replied_completeReply _ _ _ awake (.inl ⟨rfl, wanted⟩)), rfl⟩
  · have refused := tokenDigestDone_bad s r rest e [] digests purpose service held bad
    rw [source] at refused
    have units := settleToken_unitsSettled .badCheck [] (digestDone rest (penaltyAfter .relay s.domain.penalty) s) e
      held settled.1.2.1 settled.1.2.2
    have comes := exec_unitsSettled .tokenCheckDigestDone s _ _ rfl refused units
    rw [settleToken_ofRelay .badCheck [] (digestDone rest (penaltyAfter .relay s.domain.penalty) s) e [] held source] at comes
    refine ⟨_, comes, ?_, ?_, ?_⟩
    · rw [pump_notices]
      exact raise_notices _ _ (awake_on awake)
    · rw [pump_replies, raise_replies]
      rfl
    · rw [raise_eq]
      rfl
  · have refused := tokenDigestDone_bad s r rest e _ digests purpose service held bad
    have same : penaltyAfter e.source s.domain.penalty = penalty := by
      rw [isPenalty]
      cases e.source <;> rfl
    rw [same] at refused
    have run' := exec_refusedThenNext .tokenCheckDigestDone s (digestDone rest penalty s) e next more .badCheck []
      (by rw [← refused]; rfl) held
    have settles := settleToken_eq .badCheck [] (digestDone rest penalty s) e _ held
    have cancelled := settleToken_cancelled .badCheck [] (digestDone rest penalty s)
    generalize settleToken .badCheck [] (digestDone rest penalty s) = y at settles cancelled run'
    obtain ⟨-, store, journal⟩ := settled.1
    have yRun : y.supply.power = .run := by rw [settles]; exact run
    have yIdle : y.tokens.service = .idle := by rw [settles]
    have yHeld : y.tokens.intake = next :: more := by rw [settles]
    have yPenalty : y.domain.penalty = penalty := by rw [settles]; rfl
    have yStore : y.relay.service = none ∧ y.domain.clock.timeSet = true → y.relay.waiting = [] := by
      rw [settles]; exact store
    have yJournal : y.journal.failed = false ∧ y.journal.flushWait = false ∧ y.journal.op = .none →
        y.journal.queue = [] := by rw [settles]; exact journal
    refine ⟨fun free => ?_, fun req source waits last wanted => ?_⟩
    · have taken := serviceStart_none y.domain.penalty next nonzero (by rwa [yPenalty])
      have comes := exec_unitsSettled .tokenCheckDigestDone s _ _ run'
        (serveTokens_takes more.length y next more yRun yIdle yHeld taken) ⟨fun both => (nomatch both.2), yStore, yJournal⟩
      refine ⟨_, comes, yHeld, rfl, ?_, ?_⟩
      · rw [settles]
        rfl
      · rw [settles]
        rfl
    · subst last
      have waiting := serviceStart_waits y.domain.penalty next req nonzero source (by rwa [yPenalty])
      have answered := serveTokens_refused 0 y next [] _ _ yRun yIdle yHeld waiting
      have comes := exec_unitsSettled .tokenCheckDigestDone s _ _ run' answered
        (settleToken_unitsSettled _ _ y next yHeld yStore yJournal)
      rw [settleToken_ofKeypad _ _ y next [] req yHeld source, answer, completeReply_eq, yPenalty] at comes
      refine ⟨_, comes, rfl, rfl, ?_, ?_⟩
      · exact Replied.pump (replied_completeReply _ _ _ (by rw [yRun]; rfl)
          (.inl ⟨rfl, fun gone => wanted (cancelled _ gone)⟩))
      · rw [settles]
        rfl

/-! ## Genuine tokens (R49, R52, R53, R60) -/

theorem tokenDigestDone_genuine (s : State) (r : DigestRequest) (rest : List DigestRequest) (e : IntakeEntry)
    (more : List IntakeEntry) (digests : s.digests = r :: rest) (purpose : r.purpose = .tokenCheck)
    (service : s.tokens.service = .awaitDigest) (held : s.tokens.intake = e :: more)
    (genuine : BitVec.ofNat 22 (Config.keyedDigest r.key r.fields) = tokenCheck e.token) :
    tokenDigestDone s = checkToken e true { s with digests := rest } := by
  rw [tokenDigestDone_checks s r rest e more digests purpose service held, DigestRequest.result, decide_eq_true genuine]

/-- A token is submitted only to a journal that has not failed (R60). -/
theorem evaluate_ok_journal (f : Settings) (c : DayClock) (failed : Bool) (a : Account) (k : TokenKind) (n : BitVec 66)
    (t : TokenEntry) (evaluated : evaluate f c failed a k n = .ok t) : failed = false := by
  cases failed with
  | false => rfl
  | true =>
    unfold evaluate at evaluated
    dsimp only at evaluated
    split_ifs at evaluated with _ _ _ _ notFailed
    exact absurd rfl notFailed

/-- The part with a genuine token submitted, its journal not yet gone on. -/
def submitted (rest : List DigestRequest) (entry : TokenEntry) (s : State) : State :=
  { s with
    digests := rest
    account := { s.account with pinned := true }
    tokens := { s.tokens with service := .inFlight }
    journal := { s.journal with queue := s.journal.queue ++ [.token entry] } }

theorem checkToken_submits (e : IntakeEntry) (k : TokenKind) (entry : TokenEntry) (rest : List DigestRequest) (s : State)
    (kind : tokenKindOf (tokenKind e.token) = some k) (verdict : s.tokens.window.verdict (tokenSerial e.token) = .new)
    (evaluated : evaluate s.provisioning.settings s.domain.clock s.journal.failed s.account.acct k e.token = .ok entry) :
    checkToken e true { s with digests := rest } = submitted rest entry s := by
  have sound := evaluate_ok_journal _ _ _ _ _ _ _ evaluated
  have submits : checkToken e true { s with digests := rest } = submitToken entry { s with digests := rest } := by
    simp [checkToken, kind, verdict, evaluated]
  rw [submits, submitToken, submitEntry]
  exact if_neg (by rw [sound]; decide)

/-- An idle journal with an entry waiting begins its write, or the erase that makes room for it (R135, R139). -/
theorem journalGoOn_begins (s : State) (q : Queued) (rest : List Queued) (works : s.journal.failed = false)
    (notWaiting : s.journal.flushWait = false) (idle : s.journal.op = .none) (waits : s.journal.queue = q :: rest) :
    journalGoOn s = { s with journal := { s.journal with
      op := if 60 ≤ s.journal.nextSlot then .erase (nextGood s.journal.bad s.journal.sector)
        else .write (queuedEntry s q) } } := by
  unfold journalGoOn
  rw [if_neg (by simp [works, notWaiting, idle]), waits]
  dsimp only
  split
  · rfl
  · rfl

/-- The refusal of a genuine token, with the digest request for its own receipt when it is a DUPLICATE. -/
theorem checkToken_refuses (e : IntakeEntry) (result : TokenResult) (rest : List DigestRequest) (s : State)
    (held : s.tokens.intake = [e]) (awake : s.supply.power.awake = true)
    (refused : (tokenKindOf (tokenKind e.token) = none ∧ result = .unknownKind)
      ∨ (∃ k, tokenKindOf (tokenKind e.token) = some k
        ∧ ((s.tokens.window.verdict (tokenSerial e.token) = .duplicate ∧ result = .duplicate)
          ∨ (s.tokens.window.verdict (tokenSerial e.token) = .tooOld ∧ result = .serialTooOld)
          ∨ (s.tokens.window.verdict (tokenSerial e.token) = .new
            ∧ evaluate s.provisioning.settings s.domain.clock s.journal.failed s.account.acct k e.token
                = .error result)))) :
    checkToken e true { s with digests := rest } = { settleToken result [] { s with digests := rest } with
      digests := rest ++ (if tokenKindOf (tokenKind e.token) ≠ none
          ∧ s.tokens.window.verdict (tokenSerial e.token) = .duplicate then
        [⟨.ownReceipt (tokenSerial e.token) s.domain.clock.day, s.provisioning.settings.districtKey,
          [s.provisioning.settings.kitNumber, tokenSerial e.token, s.domain.clock.day]⟩]
      else []) } := by
  have settles := settleToken_eq result [] { s with digests := rest } e [] held
  rcases refused with ⟨kind, rfl⟩ | ⟨k, kind, ⟨verdict, rfl⟩ | ⟨verdict, rfl⟩ | ⟨verdict, evaluated⟩⟩
  · have checks : checkToken e true { s with digests := rest } = settleToken .unknownKind [] { s with digests := rest } := by
      simp [checkToken, kind]
    rw [checks, settles, kind]
    simp
  · have checks : checkToken e true { s with digests := rest } =
        requestReceipt (tokenSerial e.token) (settleToken .duplicate [] { s with digests := rest }) := by
      simp [checkToken, kind, verdict]
    rw [checks, requestReceipt, requestDigest_awake _ _ (by rw [settleToken_supply]; exact awake), settles,
      if_pos (by simp [kind, verdict])]
  · have checks : checkToken e true { s with digests := rest } = settleToken .serialTooOld [] { s with digests := rest } := by
      simp [checkToken, kind, verdict]
    rw [checks, settles, if_neg (by simp [verdict])]
    simp
  · have checks : checkToken e true { s with digests := rest } = settleToken result [] { s with digests := rest } := by
      simp [checkToken, kind, verdict, evaluated]
    rw [checks, settles, if_neg (by simp [verdict])]
    simp

/-- Settles O45: the submission, with the write or the erase it begins, and the refusals. -/
theorem genuineTokensAreServed : Obligations.GenuineTokensAreServed := by
  refine ⟨fun r rest e more k entry s settled digests purpose service held genuine kind verdict evaluated => ?_,
    fun r rest e result s settled awake digests purpose service held genuine refused => ?_⟩
  · have submits := (tokenDigestDone_genuine s r rest e more digests purpose service held genuine).trans
      (checkToken_submits e k entry rest s kind verdict evaluated)
    have sound := evaluate_ok_journal _ _ _ _ _ _ _ evaluated
    obtain ⟨⟨-, store, journal⟩, link⟩ := settled
    refine ⟨fun busy => ?_, fun idle notWaiting => ?_⟩
    · refine exec_settled .tokenCheckDigestDone s _ _ rfl submits ⟨⟨fun both => (nomatch both.2), store, ?_⟩, link⟩
      rintro ⟨-, notWaiting, idle⟩
      rcases busy with working | waiting
      · exact absurd idle working
      · exact (Bool.false_ne_true (notWaiting.symm.trans waiting)).elim
    · have empty := journal ⟨sound, notWaiting, idle⟩
      have goesOn : journalGoOn (submitted rest entry s) = { submitted rest entry s with
          journal := { s.journal with
            queue := [.token entry]
            op := if 60 ≤ s.journal.nextSlot then .erase (nextGood s.journal.bad s.journal.sector)
              else .write (sealEntry s.journal.nextSequence (.token entry.body) entry.time entry.snapshot) } } := by
        have waits : (submitted rest entry s).journal.queue = [.token entry] := by
          rw [submitted, empty, List.nil_append]
        rw [journalGoOn_begins (submitted rest entry s) _ _ sound notWaiting idle waits, ← waits]
        rfl
      have run : exec .tokenCheckDigestDone s = .next (finish .tokenFirst (journalGoOn (submitted rest entry s))) := by
        rw [← finish_journalGoOn .tokenFirst (submitted rest entry s) (fun both => (nomatch both.2)) store, ← submits]
        rfl
      refine exec_settled .tokenCheckDigestDone s _ _ run goesOn ⟨⟨fun both => (nomatch both.2), store, ?_⟩, link⟩
      rintro ⟨-, -, idle⟩
      dsimp only at idle
      split at idle
      · cases idle
      · cases idle
  · have refuses := (tokenDigestDone_genuine s r rest e [] digests purpose service held genuine).trans
      (checkToken_refuses e result rest s held awake refused)
    have comes := exec_unitsSettled .tokenCheckDigestDone s _ _ rfl refuses
      (settleToken_unitsSettled result [] { s with digests := rest } e held settled.1.2.1 settled.1.2.2)
    refine ⟨_, comes, rfl, fun req source => ?_, fun source => ?_⟩
    · rw [settleToken_ofKeypad result [] { s with digests := rest } e [] req held source, answer]
      refine ⟨?_, ?_, fun wanted => ?_⟩
      · rw [completeReply_eq]
      · rw [pump_notices, completeReply_notices]
      · exact Replied.pump (replied_completeReply _ _ _ awake (.inl ⟨rfl, wanted⟩))
    · rw [settleToken_ofRelay result [] { s with digests := rest } e [] held source]
      refine ⟨?_, ?_, ?_⟩
      · rw [raise_eq]
      · rw [pump_notices]
        exact raise_notices _ _ (awake_on awake)
      · rw [pump_replies, raise_replies]

end Sys2Proof.Machine
end

section
/-! The relay store's digests: envelopes and the items of a CARRY (O48, O49). -/

namespace Sys2Proof.Machine

/-! ## Receipts (R153) -/

theorem lowestDay_append (before after : List Receipt) (old : Receipt) (ahead : ∀ x ∈ before, old.created < x.created)
    (behind : ∀ x ∈ after, old.created ≤ x.created) : lowestDay (before ++ old :: after) = some old.created := by
  induction before with
  | nil =>
    rw [List.nil_append, lowestDay]
    cases lowest : lowestDay after with
    | none => rfl
    | some d =>
      obtain ⟨y, mem, rfl⟩ := lowestDay_mem after d lowest
      exact congrArg some (Nat.min_eq_left (behind y mem))
  | cons r rest ih =>
    rw [List.cons_append, lowestDay, ih fun x hx => ahead x (.tail _ hx)]
    exact congrArg some (Nat.min_eq_right (ahead r (.head _)).le)

theorem evictDay_append (before after : List Receipt) (old : Receipt) (ahead : ∀ x ∈ before, old.created < x.created) :
    evictDay old.created (before ++ old :: after) = before ++ after := by
  induction before with
  | nil => exact if_pos rfl
  | cons r rest ih =>
    have later := ahead r (.head _)
    rw [List.cons_append, evictDay, if_neg (by omega), ih fun x hx => ahead x (.tail _ hx)]
    rfl

theorem addReceipt_held (x : Receipt) (list : List Receipt) (held : ∃ y ∈ list, y.kit = x.kit ∧ y.serial = x.serial) :
    addReceipt x list = list := if_pos ((any_receipt_iff _ _ _).2 held)

/-- A receipt that is not held joins the list, or, with 32 held, takes the place of the oldest of the lowest day. -/
theorem addReceipt_new (x : Receipt) (list : List Receipt) (fresh : ∀ y ∈ list, ¬(y.kit = x.kit ∧ y.serial = x.serial)) :
    (list.length < 32 → addReceipt x list = list ++ [x])
      ∧ (∀ before old after, list = before ++ old :: after → list.length = 32 →
          (∀ y ∈ before, old.created < y.created) → (∀ y ∈ after, old.created ≤ y.created) →
          addReceipt x list = before ++ after ++ [x]) := by
  have notHeld : ¬ list.any (Receipt.isFor x.kit x.serial) = true := by
    rw [any_receipt_iff]
    rintro ⟨y, mem, isFor⟩
    exact fresh y mem isFor
  unfold addReceipt
  rw [if_neg notHeld]
  refine ⟨fun room => if_pos room, fun before old after split full ahead behind => ?_⟩
  rw [if_neg (by omega), split, lowestDay_append before after old ahead behind]
  exact congrArg (· ++ [x]) (evictDay_append before after old ahead)

theorem any_receipt_decide (kit serial : Nat) (list : List Receipt) :
    (list.any (fun x => x.kit = kit ∧ x.serial = serial) = true) ↔ ∃ y ∈ list, y.kit = kit ∧ y.serial = serial := by
  simp only [List.any_eq_true, decide_eq_true_eq]

/-! ## Envelopes (R65, R156, R158) -/

theorem receiptDigestDone_adds (s : State) (r : DigestRequest) (rest : List DigestRequest) (serial created : Nat)
    (digests : s.digests = r :: rest) (purpose : r.purpose = .ownReceipt serial created) :
    receiptDigestDone s = { s with
      digests := rest
      relay := { s.relay with
        receipts :=
          addReceipt ⟨s.provisioning.settings.kitNumber, serial, created, r.envelope, 0⟩ s.relay.receipts } } := by
  unfold receiptDigestDone
  rw [digests]
  dsimp only
  rw [purpose]

theorem renewEnvelope_eq (dest serial : Nat) (env : BitVec 32) (xs : List RelayRecord) :
    renewEnvelope dest serial env xs = xs.map (fun r =>
      if r.destination = dest ∧ tokenSerial r.token = serial then { r with envelope := env } else r) := by
  simp only [renewEnvelope, record_isFor_iff]

theorem renewalDigestDone_renews (s : State) (r : DigestRequest) (rest : List DigestRequest) (c : CarryService)
    (dest serial : Nat) (digests : s.digests = r :: rest) (purpose : r.purpose = .renewal)
    (service : s.relay.service = some c) (renewing : c.renewing = some (dest, serial)) :
    renewalDigestDone s = carryGoOn { c with renewing := none } { s with
      digests := rest
      relay := { s.relay with records := renewEnvelope dest serial r.envelope s.relay.records } } := by
  unfold renewalDigestDone
  rw [digests, service]
  dsimp only
  rw [if_pos purpose, renewing]

/-- With an item left its check is requested (R155). -/
theorem carryGoOn_next (c : CarryService) (s : State) (next : RelayItem) (more : List RelayItem)
    (awake : s.supply.power.awake = true) (left : c.items = next :: more) :
    carryGoOn c s = { s with
      digests := s.digests ++ [⟨.itemCheck, s.provisioning.settings.districtKey, next.envelopeFields⟩]
      relay := { s.relay with service := some c } } := by
  unfold carryGoOn
  rw [left]
  exact requestDigest_awake _ { s with relay := { s.relay with service := some c } } awake

/-- With none left the CARRY is answered and the store is free (R155). -/
theorem carryGoOn_answers (c : CarryService) (s : State) (none_ : c.items = []) :
    carryGoOn c s = answer c.request
      (0 :: (c.results.map ItemResult.code ++ natBytes 1 s.relay.records.length ++ natBytes 1 s.relay.receipts.length))
      { s with relay := { s.relay with service := none } } := by
  unfold carryGoOn
  rw [none_]
  rfl

/-- The last item's settling: the CARRY is answered and the store is free (R155). -/
theorem exec_carryAnswered (i : Instr) (order : DigestOrder) (s y : State) (c : CarryService)
    (run : exec i s = .next (finish order (carryGoOn c y))) (last : c.items = []) (awake : y.supply.power.awake = true)
    (wanted : c.request.id ∉ y.link.cancelled)
    (tokens : y.supply.power = .run ∧ y.tokens.service = .idle → y.tokens.intake = [])
    (noneWaits : y.relay.waiting = [])
    (journal : y.journal.failed = false ∧ y.journal.flushWait = false ∧ y.journal.op = .none → y.journal.queue = []) :
    ∃ t, exec i s = .next t
      ∧ Replied ⟨c.request.id, c.request.tag, c.request.kind,
          0 :: (c.results.map ItemResult.code ++ natBytes 1 y.relay.records.length ++ natBytes 1 y.relay.receipts.length),
          false⟩ t.link
      ∧ t.link.notices = y.link.notices
      ∧ t = { y with relay := { y.relay with service := none }, link := t.link } := by
  rw [carryGoOn_answers c y last, finish_unitsSettled] at run
  · refine ⟨_, run, Replied.pump (replied_answer _ _ _ awake wanted), ?_, ?_⟩
    · rw [pump_notices, answer, completeReply_notices]
    · rw [answer, completeReply_eq]
  · simp only [UnitsSettled, answer_supply, answer_tokens, answer_relay, answer_journal]
    exact ⟨tokens, fun _ => noneWaits, journal⟩

/-- With an item left its check is requested, and nothing else happens (R155). -/
theorem exec_carryNext (i : Instr) (order : DigestOrder) (s y : State) (c : CarryService) (next : RelayItem)
    (more : List RelayItem) (run : exec i s = .next (finish order (carryGoOn c y))) (left : c.items = next :: more)
    (awake : y.supply.power.awake = true)
    (tokens : y.supply.power = .run ∧ y.tokens.service = .idle → y.tokens.intake = [])
    (journal : y.journal.failed = false ∧ y.journal.flushWait = false ∧ y.journal.op = .none → y.journal.queue = [])
    (link : LinkSettled y.link) :
    exec i s = .next { y with
      digests := y.digests ++ [⟨.itemCheck, y.provisioning.settings.districtKey, next.envelopeFields⟩]
      relay := { y.relay with service := some c } } := by
  rw [carryGoOn_next c y next more awake left, finish_settled] at run
  · exact run
  · exact ⟨⟨tokens, fun both => (nomatch both.1), journal⟩, link⟩

/-- Settles O48: an own receipt's envelope and a renewed one. -/
theorem envelopesComplete : Obligations.EnvelopesComplete := by
  refine ⟨fun r rest serial created s settled digests purpose => ?_, fun x list => ⟨addReceipt_held x list,
    addReceipt_new x list⟩,
    fun r rest c dest serial renewed s settled awake digests purpose service renewing isRenewed => ?_⟩
  · have adds := receiptDigestDone_adds s r rest serial created digests purpose
    refine ⟨fun held => ?_, fun fresh room => ?_, fun before old after split fresh full ahead behind => ?_⟩
    · rw [any_receipt_decide] at held
      rw [addReceipt_held ⟨s.provisioning.settings.kitNumber, serial, created, r.envelope, 0⟩ _ held] at adds
      exact exec_settled _ _ _ _ rfl adds settled
    · rw [← Bool.not_eq_true, any_receipt_decide] at fresh
      rw [(addReceipt_new ⟨s.provisioning.settings.kitNumber, serial, created, r.envelope,
        0⟩ _ fun y mem isFor => fresh ⟨y, mem, isFor⟩).1 room] at adds
      exact exec_settled _ _ _ _ rfl adds settled
    · rw [← Bool.not_eq_true, any_receipt_decide] at fresh
      rw [(addReceipt_new ⟨s.provisioning.settings.kitNumber, serial, created, r.envelope,
        0⟩ _ fun y mem isFor => fresh ⟨y, mem, isFor⟩).2 before old after split full ahead behind] at adds
      exact exec_settled _ _ _ _ rfl adds settled
  · have renews := renewalDigestDone_renews s r rest c dest serial digests purpose service renewing
    rw [renewEnvelope_eq, DigestRequest.envelope, DigestRequest.result, ← isRenewed] at renews
    have run : exec .envelopeRenewalDone s = .next (finish .tokenFirst (carryGoOn { c with renewing := none } { s with
        digests := rest
        relay := { s.relay with records := renewed } })) := by
      rw [← renews]
      rfl
    refine ⟨fun last noneWaits wanted => ?_, fun next more left => ?_⟩
    · obtain ⟨t, comes, replied, notices, same⟩ := exec_carryAnswered _ _ _ _ _ run last awake wanted settled.1.1 noneWaits
        settled.1.2.2
      have length : renewed.length = s.relay.records.length := by rw [isRenewed, List.length_map]
      dsimp only at replied
      rw [length] at replied
      exact ⟨t, comes, replied, notices, same⟩
    · exact exec_carryNext _ _ _ _ _ next more run left awake settled.1.1 settled.1.2.2 settled.2

end Sys2Proof.Machine
end

section
/-! The items of a CARRY (O49). -/

namespace Sys2Proof.Machine

/-! ## The service of an item (R155, R156) -/

theorem itemDigestDone_settles (order : DigestOrder) (s : State) (r : DigestRequest) (rest : List DigestRequest)
    (c : CarryService) (item : RelayItem) (more : List RelayItem) (digests : s.digests = r :: rest)
    (purpose : r.purpose = .itemCheck) (service : s.relay.service = some c) (items : c.items = item :: more) :
    itemDigestDone order s =
      settleItem order c (evaluateItem (decide (BitVec.ofNat 32 (Config.keyedDigest r.key r.fields) = item.envelope)) item
        { s with digests := rest }) := by
  unfold itemDigestDone
  rw [digests, service]
  dsimp only
  rw [if_pos purpose, items]
  rfl

/-- The CARRY after an item is settled (R155). -/
def CarryService.after (c : CarryService) (more : List RelayItem) (result : ItemResult) : CarryService :=
  { c with items := more, results := c.results ++ [result] }

theorem after_codes (c : CarryService) (more : List RelayItem) (result : ItemResult) :
    (c.after more result).results.map ItemResult.code = c.results.map ItemResult.code ++ [result.code] := by
  rw [CarryService.after, List.map_append]
  rfl

/-- Where an item leaves the Token Unit nothing to take, the store goes on whichever order the command names. -/
theorem settleItem_goesOn (order : DigestOrder) (c : CarryService) (x : SettledItem) (item : RelayItem)
    (more : List RelayItem) (items : c.items = item :: more)
    (tokens : x.state.supply.power = .run ∧ x.state.tokens.service = .idle → x.state.tokens.intake = []) :
    settleItem order c x = afterItem (c.after more x.result) x.renew x.state := by
  have left : c.items.drop 1 = more := by rw [items]; rfl
  cases order with
  | tokenFirst =>
    rw [settleItem, serveTokens_of_settled _ _ tokens, left]
    rfl
  | storeFirst =>
    rw [settleItem, left]
    rfl


section

variable (order : DigestOrder) (r : DigestRequest) (rest : List DigestRequest) (c : CarryService) (item : RelayItem)
  (more : List RelayItem) (s : State) (digests : s.digests = r :: rest) (purpose : r.purpose = .itemCheck)
  (service : s.relay.service = some c) (items : c.items = item :: more)
include digests purpose service items

/-- An item whose settling leaves the Token Unit nothing to take, and no envelope to renew. -/
theorem exec_item (x : SettledItem)
    (evaluated : evaluateItem (decide (BitVec.ofNat 32 (Config.keyedDigest r.key r.fields) = item.envelope)) item
      { s with digests := rest } = x)
    (tokens : x.state.supply.power = .run ∧ x.state.tokens.service = .idle → x.state.tokens.intake = [])
    (noRenewal : x.renew = none) :
    exec (.itemEnvelopeCheckDone order) s = .next (finish order (carryGoOn (c.after more x.result) x.state)) := by
  have settles := itemDigestDone_settles order s r rest c item more digests purpose service items
  rw [evaluated, settleItem_goesOn order c x item more items tokens, noRenewal] at settles
  exact congrArg (fun t => Host.Outcome.next (finish order t)) settles

/-- A good item whose settling leaves the Token Unit nothing to take. -/
theorem exec_goodItem (x : SettledItem) (good : BitVec.ofNat 32 (Config.keyedDigest r.key r.fields) = item.envelope)
    (evaluated : evaluateItem true item { s with digests := rest } = x)
    (tokens : x.state.supply.power = .run ∧ x.state.tokens.service = .idle → x.state.tokens.intake = [])
    (noRenewal : x.renew = none) :
    exec (.itemEnvelopeCheckDone order) s = .next (finish order (carryGoOn (c.after more x.result) x.state)) :=
  exec_item order r rest c item more s digests purpose service items x (by rw [decide_eq_true good, evaluated]) tokens
    noRenewal

/-- A stored item whose envelope is renewed. -/
theorem exec_renewedItem (x : SettledItem) (good : BitVec.ofNat 32 (Config.keyedDigest r.key r.fields) = item.envelope)
    (evaluated : evaluateItem true item { s with digests := rest } = x)
    (tokens : x.state.supply.power = .run ∧ x.state.tokens.service = .idle → x.state.tokens.intake = []) :
    exec (.itemEnvelopeCheckDone order) s =
      .next (finish order (afterItem (c.after more x.result) x.renew x.state)) := by
  have settles := itemDigestDone_settles order s r rest c item more digests purpose service items
  rw [decide_eq_true good, evaluated, settleItem_goesOn order c x item more items tokens] at settles
  exact congrArg (fun t => Host.Outcome.next (finish order t)) settles

/-- An item with a bad envelope has no effect (Table 9-4). -/
theorem exec_badItem (settled : Settled s)
    (bad : BitVec.ofNat 32 (Config.keyedDigest r.key r.fields) ≠ item.envelope) :
    exec (.itemEnvelopeCheckDone order) s =
      .next (finish order (carryGoOn (c.after more .badEnvelope) { s with digests := rest })) :=
  exec_item order r rest c item more s digests purpose service items ⟨.badEnvelope, { s with digests := rest }, none⟩
    (by rw [decide_eq_false bad]; rfl) settled.1.1 rfl

end

/-! ## Token items for the own kit (Table 9-4) -/

/-- A token item past its expiry day, or for the own kit with a full intake, has no effect. -/
theorem evaluateItem_without (dest : Nat) (tok : BitVec 66) (issue expiry hop : Nat) (env : BitVec 32) (s : State)
    (h : expiry < s.domain.clock.day ∨ dest = s.provisioning.settings.kitNumber ∧ 4 ≤ s.tokens.intake.length) :
    evaluateItem true (.token dest tok issue expiry hop env) s =
      ⟨if expiry < s.domain.clock.day then .expired else .intakeFull, s, none⟩ := by
  unfold evaluateItem
  by_cases expired : expiry < s.domain.clock.day
  · simp [expired]
  · obtain ⟨own, full⟩ := h.resolve_left expired
    have noRoom : s.tokens.hasRoom = false := decide_eq_false (Nat.not_lt.2 full)
    simp [expired, own, noRoom]

theorem evaluateItem_queued (dest : Nat) (tok : BitVec 66) (issue expiry hop : Nat) (env : BitVec 32) (s : State)
    (current : s.domain.clock.day ≤ expiry) (own : dest = s.provisioning.settings.kitNumber)
    (room : s.tokens.intake.length < 4) :
    evaluateItem true (.token dest tok issue expiry hop env) s = ⟨.queued, joinIntake ⟨.relay, tok⟩ s, none⟩ := by
  have hasRoom : s.tokens.hasRoom = true := decide_eq_true room
  simp [evaluateItem, Nat.not_lt.2 current, own, hasRoom]

/-- A token item for another kit, good and not expired (Table 9-4 from the hop limit on). -/
theorem evaluateItem_other (dest : Nat) (tok : BitVec 66) (issue expiry hop : Nat) (env : BitVec 32) (s : State)
    (result : ItemResult) (records : List RelayRecord) (current : s.domain.clock.day ≤ expiry)
    (other : dest ≠ s.provisioning.settings.kitNumber)
    (evaluated : evaluateRecord s.domain.clock.day s.relay dest tok issue expiry hop env = (result, records)) :
    evaluateItem true (.token dest tok issue expiry hop env) s = ⟨result, { s with relay := { s.relay with records := records } },
      if result = .stored ∧ s.domain.clock.day + 60 < expiry then some (dest, tokenSerial tok) else none⟩ := by
  simp [evaluateItem, Nat.not_lt.2 current, other, evaluated]

/-! ## Receipt items (Table 9-5) -/

theorem evaluateItem_ownReceipt (kit serial created : Nat) (env : BitVec 32) (s : State)
    (own : kit = s.provisioning.settings.kitNumber) :
    evaluateItem true (.receipt kit serial created env) s = ⟨.receiptIgnored, s, none⟩ := by
  simp [evaluateItem, evaluateReceipt, own]

theorem evaluateItem_receipt (kit serial created : Nat) (env : BitVec 32) (s : State)
    (other : kit ≠ s.provisioning.settings.kitNumber) :
    evaluateItem true (.receipt kit serial created env) s =
      ⟨if ∃ x ∈ s.relay.records, x.destination = kit ∧ tokenSerial x.token = serial then .receiptMatched
          else .receiptStored,
        { s with relay := { s.relay with
          records := s.relay.records.filter (fun x => ¬(x.destination = kit ∧ tokenSerial x.token = serial))
          receipts := addReceipt ⟨kit, serial, created, env, 0⟩ s.relay.receipts } }, none⟩ := by
  by_cases held : ∃ x ∈ s.relay.records, x.destination = kit ∧ tokenSerial x.token = serial
  · have any := (any_record_iff kit serial s.relay.records).2 held
    simp [evaluateItem, evaluateReceipt, other, any, held, removeRecord_eq]
  · have any : s.relay.records.any (RelayRecord.isFor kit serial) = false := by
      rw [← Bool.not_eq_true, any_record_iff]
      exact held
    have none_ : s.relay.records.filter (fun x => ¬(x.destination = kit ∧ tokenSerial x.token = serial))
        = s.relay.records :=
      List.filter_eq_self.2 fun x mem => decide_eq_true fun isFor => held ⟨x, mem, isFor⟩
    rw [none_, if_neg held]
    simp [evaluateItem, evaluateReceipt, other, any]

/-! ## A record stored, and its envelope's renewal (R156) -/

/-- A stored record is the last of the records, and the only one of its destination and serial. -/
theorem evaluateRecord_stored (day : Nat) (x : RelayStore) (dest : Nat) (tok : BitVec 66) (issue expiry hop : Nat)
    (env : BitVec 32) (records : List RelayRecord)
    (evaluated : evaluateRecord day x dest tok issue expiry hop env = (.stored, records)) :
    records.find? (RelayRecord.isFor dest (tokenSerial tok)) = some ⟨dest, tok, issue, min expiry (day + 60), hop, env, 0⟩ := by
  have last (xs : List RelayRecord) (fresh : xs.any (RelayRecord.isFor dest (tokenSerial tok)) = false) :
      (xs ++ [storedRecord dest tok issue expiry hop env day]).find? (RelayRecord.isFor dest (tokenSerial tok)) =
        some (storedRecord dest tok issue expiry hop env day) := by
    rw [List.find?_append, List.find?_eq_none.2 (by simpa using fresh)]
    simp [storedRecord, RelayRecord.isFor]
  unfold evaluateRecord at evaluated
  dsimp only at evaluated
  split at evaluated
  · cases evaluated
  split at evaluated
  · cases evaluated
  split at evaluated
  · cases evaluated
  next fresh =>
    rw [Bool.not_eq_true] at fresh
    split at evaluated
    · cases evaluated
      exact last _ fresh
    split at evaluated
    · cases evaluated
      exact last _ fresh
    split at evaluated
    · cases evaluated
      refine last _ (List.any_eq_false.2 fun y mem => List.any_eq_false.1 fresh y ?_)
      exact (removeRecord_sublist _ _ _).subset mem
    · cases evaluated

/-- A record stored with its expiry day shortened has its envelope renewed before the CARRY goes on (R156). -/
theorem afterItem_renews (c : CarryService) (dest serial : Nat) (s : State) (record : RelayRecord)
    (awake : s.supply.power.awake = true)
    (found : s.relay.records.find? (RelayRecord.isFor dest serial) = some record) :
    afterItem c (some (dest, serial)) s = { s with
      digests := s.digests ++ [⟨.renewal, s.provisioning.settings.districtKey,
        [record.destination, record.token.toNat, record.issueDay, record.expiryDay]⟩]
      relay := { s.relay with service := some { c with renewing := some (dest, serial) } } } := by
  unfold afterItem
  dsimp only
  rw [found]
  exact requestDigest_awake _ { s with relay := { s.relay with service := some { c with renewing := some (dest, serial) } } }
    awake

/-! ## A token queued for an idle intake (R48, log entry 8) -/

theorem answer_of_tokens (req : Request) (body : List Byte) (s : State) (u : TokenUnit) (d : List DigestRequest) :
    answer req body { s with tokens := u, digests := d } = { answer req body s with tokens := u, digests := d } := by
  unfold answer completeReply
  dsimp only
  split <;> rfl

/-- With the store first, what the Token Unit takes is taken at the end of the event. -/
theorem finish_storeFirst (s : State) (store : s.relay.service = none ∧ s.domain.clock.timeSet = true → s.relay.waiting = []) :
    finish .storeFirst s = finish .storeFirst (settleTokens s) := by
  have again : settleTokens (settleTokens s) = settleTokens s :=
    serveTokens_of_settled _ _ fun ⟨run, idle⟩ => settleTokens_settles s run idle
  have same : settleStore s = s := serveStore_of_settled _ _ store
  have same' : settleStore (settleTokens s) = settleTokens s :=
    serveStore_of_settled _ _ (by simpa only [settleTokens, serveTokens_relay, serveTokens_domain] using store)
  simp only [finish, settleUnits, same, same', again]

/-- The part with an item's check done and its token queued. -/
def queuedToken (rest : List DigestRequest) (tok : BitVec 66) (s : State) : State :=
  joinIntake ⟨.relay, tok⟩ { s with digests := rest }

theorem queuedToken_intake (rest : List DigestRequest) (tok : BitVec 66) (s : State) (empty : s.tokens.intake = []) :
    (queuedToken rest tok s).tokens.intake = [⟨.relay, tok⟩] := by
  rw [queuedToken, joinIntake, empty, List.nil_append]

/-- What the Token Unit makes of a queued token, in a part that has gone on for the store. -/
theorem settleTokens_takes (s : State) (e : IntakeEntry) (u : TokenUnit) (d : List DigestRequest) (p : Provisioning)
    (tokens : s.tokens = u) (digests : s.digests = d) (provisioning : s.provisioning = p) (run : s.supply.power = .run)
    (idle : u.service = .idle) (held : u.intake = [e]) (taken : serviceStart s.domain.penalty e = none) :
    settleTokens s = { s with
      tokens := { u with service := .awaitDigest }
      digests := d ++ [checkRequest p.settings e.token] } := by
  subst tokens digests provisioning
  rw [settleTokens_eq_of_length 1 s (by rw [held]; rfl), serveTokens_takes 0 s e [] run idle held taken]

theorem settleTokens_refuses (s : State) (e : IntakeEntry) (r : TokenResult) (x : List Byte) (run : s.supply.power = .run)
    (idle : s.tokens.service = .idle) (held : s.tokens.intake = [e])
    (refused : serviceStart s.domain.penalty e = some (r, x)) : settleTokens s = settleToken r x s := by
  rw [settleTokens_eq_of_length 1 s (by rw [held]; rfl), serveTokens_refused 0 s e [] r x run idle held refused, serveTokens]

section

variable (order : DigestOrder) (r : DigestRequest) (rest : List DigestRequest) (c : CarryService)
  (dest issue expiry hop : Nat) (tok : BitVec 66) (env : BitVec 32)
  (more : List RelayItem) (s : State) (digests : s.digests = r :: rest) (purpose : r.purpose = .itemCheck)
  (service : s.relay.service = some c) (items : c.items = .token dest tok issue expiry hop env :: more)
  (good : BitVec.ofNat 32 (Config.keyedDigest r.key r.fields) = env)
  (current : s.domain.clock.day ≤ expiry) (own : dest = s.provisioning.settings.kitNumber)
  (room : s.tokens.intake.length < 4)
include digests purpose service items good current own room

/-- A token item for the own kit is queued, and the Token Unit looks at it before the store goes on or after (R48, R155,
log entry 8). -/
theorem exec_queuedItem : exec (.itemEnvelopeCheckDone order) s = .next (finish order
    (carryGoOn (c.after more .queued) (match order with
      | .tokenFirst => settleTokens (queuedToken rest tok s)
      | .storeFirst => queuedToken rest tok s))) := by
  have settles := itemDigestDone_settles order s r rest c _ more digests purpose service items
  rw [RelayItem.envelope, decide_eq_true good,
    evaluateItem_queued dest tok issue expiry hop env { s with digests := rest } current own room] at settles
  cases order with
  | tokenFirst =>
    rw [settleItem, items] at settles
    exact congrArg (fun t => Host.Outcome.next (finish .tokenFirst t)) settles
  | storeFirst =>
    rw [settleItem, items] at settles
    exact congrArg (fun t => Host.Outcome.next (finish .storeFirst t)) settles

/-- A token item for the own kit that waits in the intake. -/
theorem exec_waitingItem (waits : s.supply.power ≠ .run ∨ s.tokens.service ≠ .idle) :
    exec (.itemEnvelopeCheckDone order) s =
      .next (finish order (carryGoOn (c.after more .queued) (queuedToken rest tok s))) := by
  have same : settleTokens (queuedToken rest tok s) = queuedToken rest tok s :=
    serveTokens_of_settled _ _ fun ⟨run, idle⟩ => (waits.elim (absurd run) (absurd idle))
  have run := exec_queuedItem order r rest c dest issue expiry hop tok env more s digests purpose service items good current
    own room
  rw [same] at run
  cases order with
  | tokenFirst => exact run
  | storeFirst => exact run

end

/-- The part with a queued token taken into service. -/
def takenToken (rest : List DigestRequest) (tok : BitVec 66) (s : State) : State :=
  { s with
    digests := rest ++ [checkRequest s.provisioning.settings tok]
    tokens := { s.tokens with intake := [⟨.relay, tok⟩], service := .awaitDigest } }

theorem settleTokens_queuedToken (rest : List DigestRequest) (tok : BitVec 66) (s : State) (run : s.supply.power = .run)
    (idle : s.tokens.service = .idle) (empty : s.tokens.intake = []) (nonzero : tokenSerial tok ≠ 0) :
    settleTokens (queuedToken rest tok s) = takenToken rest tok s := by
  have held := queuedToken_intake rest tok s empty
  rw [settleTokens_takes (queuedToken rest tok s) _ _ _ _ rfl rfl rfl run idle held
    (serviceStart_none _ _ nonzero (.inl rfl)), takenToken, ← held]
  rfl

theorem settleTokens_goneOn (rest : List DigestRequest) (tok : BitVec 66) (s : State) (d : List DigestRequest)
    (x : RelayStore) (run : s.supply.power = .run) (idle : s.tokens.service = .idle) (empty : s.tokens.intake = [])
    (nonzero : tokenSerial tok ≠ 0) :
    settleTokens { queuedToken rest tok s with digests := d, relay := x } =
      { takenToken rest tok s with digests := d ++ [checkRequest s.provisioning.settings tok], relay := x } := by
  have held := queuedToken_intake rest tok s empty
  rw [settleTokens_takes { queuedToken rest tok s with digests := d, relay := x } ⟨.relay, tok⟩ _ _ _ rfl rfl rfl run idle
    held (serviceStart_none _ _ nonzero (.inl rfl)), takenToken, ← held]
  rfl

theorem settleTokens_answer (req : Request) (body : List Byte) (rest : List DigestRequest) (tok : BitVec 66) (s : State)
    (x : RelayStore) (run : s.supply.power = .run) (idle : s.tokens.service = .idle) (empty : s.tokens.intake = [])
    (nonzero : tokenSerial tok ≠ 0) :
    settleTokens (answer req body { queuedToken rest tok s with relay := x }) =
      answer req body { takenToken rest tok s with relay := x } := by
  have held := queuedToken_intake rest tok s empty
  rw [settleTokens_takes (answer req body { queuedToken rest tok s with relay := x }) ⟨.relay, tok⟩ _ _ _
    (answer_tokens _ _ _) (answer_digests _ _ _) (answer_provisioning _ _ _) (by rw [answer_supply]; exact run) idle held
    (serviceStart_none _ _ nonzero (.inl rfl)), ← answer_of_tokens, takenToken, ← held]
  rfl

/-- The last item's token is taken into service in RUN, and the CARRY answered, in either order. -/
theorem finish_takenLast (order : DigestOrder) (rest : List DigestRequest) (tok : BitVec 66) (c : CarryService) (s : State)
    (run : s.supply.power = .run) (idle : s.tokens.service = .idle) (empty : s.tokens.intake = [])
    (nonzero : tokenSerial tok ≠ 0) (last : c.items = []) (noneWaits : s.relay.waiting = []) :
    finish order (carryGoOn c (match order with
      | .tokenFirst => settleTokens (queuedToken rest tok s)
      | .storeFirst => queuedToken rest tok s)) = finish order (carryGoOn c (takenToken rest tok s)) := by
  cases order with
  | tokenFirst =>
    dsimp only
    rw [settleTokens_queuedToken rest tok s run idle empty nonzero]
  | storeFirst =>
    dsimp only
    rw [carryGoOn_answers c (queuedToken rest tok s) last, carryGoOn_answers c (takenToken rest tok s) last,
      finish_storeFirst _ (fun _ => by rw [answer_relay]; exact noneWaits)]
    exact congrArg (finish .storeFirst) (settleTokens_answer _ _ rest tok s _ run idle empty nonzero)

/-- The part with a queued token of serial 0 refused, TOKEN_DONE not yet raised. -/
def refusedToken (rest : List DigestRequest) (tok : BitVec 66) (s : State) : State :=
  { s with
    digests := rest
    tokens := { s.tokens with intake := [], lastRelay := some ⟨tokenKind tok, 0, .badFormat⟩ } }

theorem settleTokens_zero (rest : List DigestRequest) (tok : BitVec 66) (s : State) (x : RelayStore) (l : Link)
    (run : s.supply.power = .run) (idle : s.tokens.service = .idle) (empty : s.tokens.intake = [])
    (zero : tokenSerial tok = 0) :
    settleTokens { queuedToken rest tok s with relay := x, link := l } =
      raise .tokenDone { refusedToken rest tok s with relay := x, link := l } := by
  have held := queuedToken_intake rest tok s empty
  have unit : ({ (queuedToken rest tok s).tokens with
      intake := [], service := .idle, lastRelay := some ⟨tokenKind tok, tokenSerial tok, .badFormat⟩ } : TokenUnit) =
      { s.tokens with intake := [], lastRelay := some ⟨tokenKind tok, 0, .badFormat⟩ } := by
    rw [zero, ← idle]
    rfl
  rw [settleTokens_refuses { queuedToken rest tok s with relay := x, link := l } _ .badFormat [] run idle held
    (if_pos zero), settleToken_ofRelay _ _ { queuedToken rest tok s with relay := x, link := l } _ _ held rfl]
  exact congrArg (fun u => raise .tokenDone { queuedToken rest tok s with tokens := u, relay := x, link := l }) unit

theorem answer_eq (req : Request) (body : List Byte) (s : State) :
    answer req body s = { s with link := (answer req body s).link } := completeReply_eq _ s

/-- The last item's token refused in RUN for its serial 0, and the CARRY answered, in either order. -/
theorem exec_refusedLast (order : DigestOrder) (rest : List DigestRequest) (tok : BitVec 66) (c : CarryService) (s : State)
    (i : Instr) (comes : exec i s = .next (finish order (carryGoOn c (match order with
      | .tokenFirst => settleTokens (queuedToken rest tok s)
      | .storeFirst => queuedToken rest tok s))))
    (run : s.supply.power = .run) (idle : s.tokens.service = .idle) (empty : s.tokens.intake = [])
    (zero : tokenSerial tok = 0) (last : c.items = []) (awake : s.supply.power.awake = true)
    (wanted : c.request.id ∉ s.link.cancelled) (noneWaits : s.relay.waiting = [])
    (journal : s.journal.failed = false ∧ s.journal.flushWait = false ∧ s.journal.op = .none → s.journal.queue = []) :
    ∃ t, exec i s = .next t
      ∧ Replied ⟨c.request.id, c.request.tag, c.request.kind,
          0 :: (c.results.map ItemResult.code ++ natBytes 1 s.relay.records.length ++ natBytes 1 s.relay.receipts.length),
          false⟩ t.link
      ∧ t.link.notices = s.link.notices ||| 0x0004#16
      ∧ t = { s with
          digests := rest
          tokens := { s.tokens with intake := [], lastRelay := some ⟨tokenKind tok, 0, .badFormat⟩ }
          relay := { s.relay with service := none }
          link := t.link } := by
  cases order with
  | tokenFirst =>
    rw [show settleTokens (queuedToken rest tok s) = raise .tokenDone (refusedToken rest tok s) from
      settleTokens_zero rest tok s s.relay s.link run idle empty zero] at comes
    obtain ⟨t, comes, replied, notices, same⟩ := exec_carryAnswered _ _ s _ _ comes last (by rw [raise_supply]; exact awake)
      (by rw [raise_cancelled]; exact wanted) (by rw [raise_tokens]; exact fun _ => rfl)
      (by rw [raise_relay]; exact noneWaits) (by rw [raise_journal]; exact journal)
    refine ⟨t, comes, ?_, notices.trans (raise_notices _ _ (awake_on awake)), same.trans ?_⟩
    · rwa [raise_relay] at replied
    · rw [raise_eq]
      rfl
  | storeFirst =>
    dsimp only at comes
    rw [carryGoOn_answers c _ last, finish_storeFirst _ (fun _ => by rw [answer_relay]; exact noneWaits), answer_eq] at comes
    have replied := replied_answer c.request (0 :: (c.results.map ItemResult.code ++ natBytes 1 s.relay.records.length
      ++ natBytes 1 s.relay.receipts.length)) { queuedToken rest tok s with relay := { s.relay with service := none } }
      awake wanted
    have notices : (answer c.request (0 :: (c.results.map ItemResult.code ++ natBytes 1 s.relay.records.length
      ++ natBytes 1 s.relay.receipts.length)) { queuedToken rest tok s with relay := { s.relay with service := none } }
      ).link.notices = s.link.notices := completeReply_notices _ _
    have settles := settleTokens_zero rest tok s { s.relay with service := none } (answer c.request
      (0 :: (c.results.map ItemResult.code ++ natBytes 1 s.relay.records.length ++ natBytes 1 s.relay.receipts.length))
      { queuedToken rest tok s with relay := { s.relay with service := none } }).link run idle empty zero
    replace comes := comes.trans (congrArg (fun t => Host.Outcome.next (finish .storeFirst t)) settles)
    generalize (answer c.request (0 :: (c.results.map ItemResult.code ++ natBytes 1 s.relay.records.length
      ++ natBytes 1 s.relay.receipts.length)) { queuedToken rest tok s with relay := { s.relay with service := none } }
      ).link = l at comes replied notices
    rw [finish_unitsSettled] at comes
    · refine ⟨_, comes, Replied.pump (Replied.raise (s := { refusedToken rest tok s with
        relay := { s.relay with service := none }, link := l }) replied _), ?_, ?_⟩
      · rw [pump_notices, ← notices]
        exact raise_notices _ _ (awake_on awake)
      · rw [raise_eq]
        rfl
    · simp only [UnitsSettled, raise_supply, raise_tokens, raise_relay, raise_domain, raise_journal]
      exact ⟨fun _ => rfl, fun _ => noneWaits, journal⟩

/-! ## The request that waits (R154) -/

/-- Where the Token Unit and the journal have nothing to take, the end of an event is the store's and the link's. -/
theorem finish_store (order : DigestOrder) (s : State)
    (tokens : s.supply.power = .run ∧ s.tokens.service = .idle → s.tokens.intake = [])
    (journal : s.journal.failed = false ∧ s.journal.flushWait = false ∧ s.journal.op = .none → s.journal.queue = []) :
    finish order s = { settleStore s with link := (settleStore s).link.pump } := by
  have units : UnitsSettled (settleStore s) := by
    refine ⟨?_, fun ⟨free, set⟩ => settleStore_settles s free set, ?_⟩
    · rw [settleStore, serveStore_supply, serveStore_tokens]
      exact tokens
    · rw [settleStore, serveStore_journal]
      exact journal
  rw [← finish_unitsSettled order _ units]
  have same : settleTokens s = s := serveTokens_of_settled _ _ tokens
  have same' : settleTokens (settleStore s) = settleStore s := serveTokens_of_settled _ _ units.1
  have again : settleStore (settleStore s) = settleStore s := serveStore_of_settled _ _ units.2.1
  cases order with
  | tokenFirst => simp only [finish, settleUnits, same, same', again]
  | storeFirst => simp only [finish, settleUnits, same', again]

theorem settleStore_takes (s : State) (req : Request) (behind : List Request) (free : s.relay.service = none)
    (set : s.domain.clock.timeSet = true) (waits : s.relay.waiting = req :: behind) :
    settleStore s =
      serveStore behind.length (takeStoreRequest req { s with relay := { s.relay with waiting := behind } }) := by
  rw [settleStore, waits, List.length_cons, serveStore, if_pos ⟨free, set⟩]
  simp only [waits]

/-- A reply stays queued, or waiting, whatever requests of the store are taken. -/
theorem replied_takeStoreRequest (x : Reply) (req : Request) (s : State) (awake : s.supply.power.awake = true)
    (h : Replied x s.link) : Replied x (takeStoreRequest req s).link := by
  have answered (body : List Byte) (y : State) (power : y.supply = s.supply) (link : y.link = s.link) :
      Replied x (answer req body y).link :=
    replied_completeReply x _ y (by rw [power]; exact awake) (.inr (by rw [link]; exact h))
  unfold takeStoreRequest
  split
  · unfold takeCarry
    split
    · exact answered _ s rfl rfl
    · unfold carryGoOn
      split
      · rw [requestItemCheck, requestDigest_link]
        exact h
      · exact answered _ _ rfl rfl
  · unfold takeHandoff
    split
    · exact answered _ s rfl rfl
    · exact answered _ _ rfl rfl
  · unfold takeReceipts
    split
    · exact answered _ _ rfl rfl
    · exact answered _ s rfl rfl

theorem replied_serveStore (x : Reply) (n : Nat) (s : State) (awake : s.supply.power.awake = true)
    (h : Replied x s.link) : Replied x (serveStore n s).link := by
  induction n generalizing s with
  | zero => exact h
  | succ n ih =>
    unfold serveStore
    split
    · split
      · exact h
      · exact ih _ (by rw [takeStoreRequest_supply]; exact awake) (replied_takeStoreRequest x _ _ awake h)
    · exact h

/-- The part with a CARRY answered and the store free, the requests behind the one to be taken still waiting. -/
def freed (behind : List Request) (l : Link) (s : State) : State :=
  { s with relay := { s.relay with service := none, waiting := behind }, link := l }

/-- A CARRY answered with a request waiting: the request is taken in the same event (R154). -/
theorem exec_carryThenNext (i : Instr) (order : DigestOrder) (s y : State) (c : CarryService) (waits : Request)
    (behind : List Request) (run : exec i s = .next (finish order (carryGoOn c y))) (last : c.items = [])
    (awake : y.supply.power.awake = true) (wanted : c.request.id ∉ y.link.cancelled)
    (tokens : y.supply.power = .run ∧ y.tokens.service = .idle → y.tokens.intake = [])
    (journal : y.journal.failed = false ∧ y.journal.flushWait = false ∧ y.journal.op = .none → y.journal.queue = [])
    (set : y.domain.clock.timeSet = true) (waiting : y.relay.waiting = waits :: behind) :
    ∃ (l : Link) (t : State), exec i s = .next { t with link := t.link.pump }
      ∧ t = serveStore behind.length (takeStoreRequest waits (freed behind l y))
      ∧ Replied ⟨c.request.id, c.request.tag, c.request.kind,
          0 :: (c.results.map ItemResult.code ++ natBytes 1 y.relay.records.length ++ natBytes 1 y.relay.receipts.length),
          false⟩ t.link
      ∧ t.link.notices = y.link.notices ∧ (∀ j ∈ l.cancelled, j ∈ y.link.cancelled) := by
  rw [carryGoOn_answers c y last, finish_store] at run
  · have replied := replied_answer c.request (0 :: (c.results.map ItemResult.code ++ natBytes 1 y.relay.records.length
      ++ natBytes 1 y.relay.receipts.length)) { y with relay := { y.relay with service := none } } awake wanted
    refine ⟨(answer c.request (0 :: (c.results.map ItemResult.code ++ natBytes 1 y.relay.records.length
      ++ natBytes 1 y.relay.receipts.length)) { y with relay := { y.relay with service := none } }).link, _, run, ?_, ?_, ?_,
      fun j => cancelled_completeReply j _ { y with relay := { y.relay with service := none } }⟩
    · rw [settleStore_takes _ waits behind (by rw [answer_relay]) (by rw [answer_domain]; exact set)
        (by rw [answer_relay]; exact waiting), answer_eq]
      rfl
    · rw [settleStore]
      exact replied_serveStore _ _ _ (by rw [answer_supply]; exact awake) replied
    · rw [settleStore, serveStore_notices]
      exact completeReply_notices _ _
  · rw [answer_supply, answer_tokens]
    exact tokens
  · rw [answer_journal]
    exact journal

/-- Settles O49: the last item, an item with more behind it, and the request that waits. -/
theorem itemsAreSettled : Obligations.ItemsAreSettled := by
  refine ⟨?_, ?_, ?_, ?_, ?_, ?_⟩
  · intro order r rest c item s settled awake digests purpose service items noneWaits wanted
    obtain ⟨⟨tokens, store, journal⟩, link⟩ := settled
    refine ⟨fun bad => ?_, fun dest tok issue expiry hop env isToken good => ⟨fun without => ?_, fun current own room => ?_⟩⟩
    · exact exec_carryAnswered _ order s _ _
        (exec_badItem order r rest c item [] s digests purpose service items ⟨⟨tokens, store, journal⟩, link⟩ bad)
        rfl awake wanted tokens noneWaits journal
    · subst isToken
      have run := exec_goodItem order r rest c _ [] s digests purpose service items _ good
        (evaluateItem_without dest tok issue expiry hop env _ without) tokens rfl
      obtain ⟨t, comes, replied, notices, same⟩ := exec_carryAnswered _ order s _ _ run rfl awake wanted tokens noneWaits
        journal
      refine ⟨t, comes, ?_, notices, same⟩
      rw [after_codes] at replied
      by_cases expired : expiry < s.domain.clock.day
      · rw [if_pos expired] at replied ⊢
        exact replied
      · rw [if_neg expired] at replied ⊢
        exact replied
    · subst isToken
      by_cases waits : s.supply.power ≠ .run ∨ s.tokens.service ≠ .idle
      · have run := exec_waitingItem order r rest c dest issue expiry hop tok env [] s digests purpose service items good
          current own room waits
        obtain ⟨t, comes, replied, notices, same⟩ := exec_carryAnswered _ order s _ _ run rfl awake wanted
          (fun ⟨isRun, isIdle⟩ => (waits.elim (absurd isRun) (absurd isIdle))) noneWaits journal
        refine ⟨t, comes, replied, ?_, fun _ => ⟨?_, notices, ?_⟩, fun isRun isIdle =>
          (waits.elim (absurd isRun) (absurd isIdle)), fun isRun isIdle => (waits.elim (absurd isRun) (absurd isIdle))⟩
        · rw [same]; rfl
        · rw [same]; rfl
        · rw [same]; rfl
      · obtain ⟨notNotRun, notNotIdle⟩ := not_or.1 waits
        have isRun := not_not.1 notNotRun
        have isIdle := not_not.1 notNotIdle
        have empty := tokens ⟨isRun, isIdle⟩
        have run := exec_queuedItem order r rest c dest issue expiry hop tok env [] s digests purpose service items good
          current own room
        by_cases zero : tokenSerial tok = 0
        · obtain ⟨t, comes, replied, notices, same⟩ := exec_refusedLast order rest tok (c.after [] .queued) s _ run isRun
            isIdle empty zero rfl awake wanted noneWaits journal
          refine ⟨t, comes, replied, ?_, fun other => absurd other waits, fun _ _ nonzero => absurd zero nonzero,
            fun _ _ _ => ⟨?_, notices, ?_⟩⟩
          · rw [same]
          · rw [same]
          · rw [same]
        · rw [finish_takenLast order rest tok (c.after [] .queued) s isRun isIdle empty zero rfl noneWaits] at run
          obtain ⟨t, comes, replied, notices, same⟩ := exec_carryAnswered _ order s _ _ run rfl awake wanted
            (fun both => (nomatch both.2)) noneWaits journal
          refine ⟨t, comes, replied, ?_, fun other => absurd other waits, fun _ _ _ => ⟨notices, ?_, ?_⟩,
            fun _ _ isZero => absurd isZero zero⟩
          · rw [same]; rfl
          · rw [same]; rfl
          · rw [same]; rfl
  · intro order r rest c kit serial created env s settled awake digests purpose service items noneWaits wanted good
    obtain ⟨⟨tokens, store, journal⟩, link⟩ := settled
    by_cases own : kit = s.provisioning.settings.kitNumber
    · have run := exec_goodItem order r rest c _ [] s digests purpose service items _ good
        (evaluateItem_ownReceipt kit serial created env _ own) tokens rfl
      obtain ⟨t, comes, replied, notices, same⟩ := exec_carryAnswered _ order s _ _ run rfl awake wanted tokens noneWaits
        journal
      have relay : t.relay = { s.relay with service := none } := by rw [same]
      refine ⟨t, comes, fun _ => by rw [relay]; exact ⟨rfl, rfl⟩, fun other => absurd own other, ?_, notices,
        by rw [relay], by rw [relay]; exact same⟩
      rw [after_codes] at replied
      rw [if_pos own, relay]
      exact replied
    · have run := exec_goodItem order r rest c _ [] s digests purpose service items _ good
        (evaluateItem_receipt kit serial created env _ own) tokens rfl
      obtain ⟨t, comes, replied, notices, same⟩ := exec_carryAnswered _ order s _ _ run rfl awake wanted tokens noneWaits
        journal
      have records : t.relay.records =
          s.relay.records.filter (fun x => ¬(x.destination = kit ∧ tokenSerial x.token = serial)) := by rw [same]
      have receipts : t.relay.receipts = addReceipt ⟨kit, serial, created, env, 0⟩ s.relay.receipts := by rw [same]
      refine ⟨t, comes, fun mine => absurd mine own, fun _ => ⟨records, receipts⟩, ?_, notices, by rw [same], ?_⟩
      · rw [after_codes] at replied
        rw [if_neg own, records, receipts]
        by_cases held : ∃ x ∈ s.relay.records, x.destination = kit ∧ tokenSerial x.token = serial
        · rw [if_pos held] at replied ⊢
          exact replied
        · rw [if_neg held] at replied ⊢
          exact replied
      · have relay : t.relay = _ := congrArg State.relay same
        rw [relay]
        exact same
  · intro order r rest c item next more s settled awake digests purpose service items bad
    exact exec_carryNext _ order s _ _ next more
      (exec_badItem order r rest c item (next :: more) s digests purpose service items settled bad) rfl awake settled.1.1
      settled.1.2.2 settled.2
  · intro order r rest c dest issue expiry hop tok env more result records s settled awake digests purpose service items good
      other current evaluated
    obtain ⟨⟨tokens, store, journal⟩, link⟩ := settled
    have item := evaluateItem_other dest tok issue expiry hop env { s with digests := rest } result records current other
      evaluated
    refine ⟨fun noRenewal => ?_, fun stored shortened => ?_⟩
    · rw [if_neg (by rintro ⟨isStored, far⟩; rcases noRenewal with h | h; exact h isStored; exact absurd far (Nat.not_lt.2
        h))] at item
      have run := exec_goodItem order r rest c _ more s digests purpose service items _ good item tokens rfl
      refine ⟨fun last noneWaits wanted => ?_, fun next after left => ?_⟩
      · subst last
        exact exec_carryAnswered _ order s _ _ run rfl awake wanted tokens noneWaits journal
      · subst left
        exact exec_carryNext _ order s _ _ next after run rfl awake tokens journal link
    · subst stored
      rw [if_pos ⟨rfl, shortened⟩] at item
      have run := exec_renewedItem order r rest c _ more s digests purpose service items _ good item tokens
      have found := evaluateRecord_stored _ _ dest tok issue expiry hop env records evaluated
      rw [Nat.min_eq_right shortened.le] at found
      have renews := afterItem_renews (c.after more .stored) dest (tokenSerial tok)
        { s with digests := rest, relay := { s.relay with records := records } } _ awake found
      rw [run, renews, finish_settled]
      · rfl
      · exact ⟨⟨tokens, fun both => (nomatch both.1), journal⟩, link⟩
  · intro order r rest c item next more check s settled awake digests purpose service items good isCheck
    subst isCheck
    obtain ⟨⟨tokens, store, journal⟩, link⟩ := settled
    refine ⟨fun dest tok issue expiry hop env isToken => ⟨fun expired => ?_, fun current own => ⟨fun full => ?_,
      fun room waits => ?_,
      fun tokenCheck isRun isIdle nonzero isTokenCheck => ?_⟩⟩, fun kit serial created env isReceipt => ⟨fun own => ?_,
        fun other => ?_⟩⟩
    · subst isToken
      have run := exec_goodItem order r rest c _ (next :: more) s digests purpose service items _ good
        (evaluateItem_without dest tok issue expiry hop env _ (.inl expired)) tokens rfl
      dsimp only at run
      rw [if_pos expired] at run
      exact exec_carryNext _ order s _ _ next more run rfl awake tokens journal link
    · subst isToken
      have run := exec_goodItem order r rest c _ (next :: more) s digests purpose service items _ good
        (evaluateItem_without dest tok issue expiry hop env _ (.inr ⟨own, full⟩)) tokens rfl
      dsimp only at run
      rw [if_neg (Nat.not_lt.2 current)] at run
      exact exec_carryNext _ order s _ _ next more run rfl awake tokens journal link
    · subst isToken
      exact exec_carryNext _ order s _ _ next more
        (exec_waitingItem order r rest c dest issue expiry hop tok env _ s digests purpose service items good current own room
          waits) rfl awake (fun ⟨isRun, isIdle⟩ => (waits.elim (absurd isRun) (absurd isIdle))) journal link
    · subst isToken isTokenCheck
      have empty := tokens ⟨isRun, isIdle⟩
      have run := exec_queuedItem order r rest c dest issue expiry hop tok env _ s digests purpose service items good
        current own (by rw [empty]; decide)
      cases order with
      | tokenFirst =>
        dsimp only at run
        rw [settleTokens_queuedToken rest tok s isRun isIdle empty nonzero] at run
        rw [exec_carryNext _ .tokenFirst s _ _ next more run rfl awake (fun both => (nomatch both.2)) journal link, takenToken,
          List.append_assoc]
        rfl
      | storeFirst =>
        replace run := run.trans (congrArg (fun t => Host.Outcome.next (finish .storeFirst t))
          (carryGoOn_next (c.after (next :: more) .queued) (queuedToken rest tok s) next more awake rfl))
        rw [finish_storeFirst] at run
        · replace run := run.trans (congrArg (fun t => Host.Outcome.next (finish .storeFirst t))
            (settleTokens_goneOn rest tok s _ _ isRun isIdle empty nonzero))
          rw [run, finish_settled, List.append_assoc]
          · rfl
          · exact ⟨⟨fun both => (nomatch both.2), fun both => (nomatch both.1), journal⟩, link⟩
        · exact fun both => (nomatch both.1)
    · subst isReceipt
      exact exec_carryNext _ order s _ _ next more
        (exec_goodItem order r rest c _ (next :: more) s digests purpose service items _ good
          (evaluateItem_ownReceipt kit serial created env _ own) tokens rfl) rfl awake tokens journal link
    · subst isReceipt
      exact exec_carryNext _ order s _ _ next more
        (exec_goodItem order r rest c _ (next :: more) s digests purpose service items _ good
          (evaluateItem_receipt kit serial created env _ other) tokens rfl) rfl awake tokens journal link
  · intro order r rest c item waits behind s settled awake set digests purpose service items bad wanted waiting
    obtain ⟨⟨tokens, store, journal⟩, link⟩ := settled
    have run := exec_badItem order r rest c item [] s digests purpose service items ⟨⟨tokens, store, journal⟩, link⟩ bad
    obtain ⟨l, t, comes, same, replied, notices, cancelled⟩ := exec_carryThenNext _ order s _ _ waits behind run rfl awake
      wanted tokens journal set waiting
    refine ⟨_, comes, Replied.pump replied, (pump_notices _).trans notices, fun first others isCarry read => ?_,
      fun isCarry unread none_ wanted' => ?_, fun k out isHandoff body none_ wanted' isOut => ?_⟩
    · have taken : takeStoreRequest waits (freed behind l { s with digests := rest }) =
          carryGoOn ⟨waits, first :: others, [], none⟩ (freed behind l { s with digests := rest }) := by
        simp only [takeStoreRequest, isCarry, requestKindOf_code, takeCarry, read]
      rw [taken, carryGoOn_next _ (freed behind l { s with digests := rest }) first others awake rfl,
        serveStore_of_settled] at same
      · rw [same]
        rfl
      · exact fun both => (nomatch both.1)
    · subst none_
      have taken : takeStoreRequest waits (freed [] l { s with digests := rest }) =
          answer waits [1] (freed [] l { s with digests := rest }) := by
        simp only [takeStoreRequest, isCarry, requestKindOf_code, takeCarry, unread]
        rfl
      rw [taken] at same
      refine ⟨Replied.pump ?_, ?_⟩
      · rw [same]
        exact replied_answer _ _ _ awake (fun gone => wanted' (cancelled _ gone))
      · rw [same, List.length_nil, serveStore, answer_eq]
        rfl
    · subst none_
      have read : readHandoff waits.body = some (min k.toNat 8, none) := by
        rw [body]
        exact readHandoff_of [k] _ _ (.inl ⟨rfl, rfl, by rw [fieldAt_head]⟩)
      have taken : takeStoreRequest waits (freed [] l { s with digests := rest }) =
          answer waits (handedBody (out.map RelayRecord.copy) (afterHandoff out s.relay.records).length)
            { freed [] l { s with digests := rest } with relay := { s.relay with
              service := none, waiting := [], records := afterHandoff out s.relay.records } } := by
        simp only [takeStoreRequest, isHandoff, requestKindOf_code, takeHandoff, read, isOut]
        rfl
      rw [taken, List.length_nil, serveStore] at same
      have records : t.relay.records = afterHandoff out s.relay.records := by rw [same, answer_relay]
      have layout (n : Nat) : 0 :: (natBytes 1 out.length ++ (out.map RelayRecord.copy).flatMap itemBytes ++ natBytes 1 n) =
          handedBody (out.map RelayRecord.copy) n := by
        rw [handedBody, List.length_map]
        rfl
      refine ⟨Replied.pump ?_, ?_⟩
      · show Replied ⟨_, _, _, 0 :: (_ ++ natBytes 1 t.relay.records.length), false⟩ t.link
        rw [records, layout, same]
        exact replied_answer _ _ _ awake (fun gone => wanted' (cancelled _ gone))
      · rw [same, answer_eq]
        rfl

end Sys2Proof.Machine
end

section
/-! Seconds that end in holdover, and minutes that bring a tally point (O30, O31). -/

namespace Sys2Proof.Machine

/-! ## Holdover (R124) -/

theorem journalGoOn_queue (s : State) : (journalGoOn s).journal.queue = s.journal.queue := by
  unfold journalGoOn
  split
  · rfl
  · split
    · rfl
    · split <;> rfl

/-- In HOLDOVER, with no request waiting, the end of an event is the journal's alone. -/
theorem finish_holdover (order : DigestOrder) (s : State) (notRun : s.supply.power ≠ .run) (noneWaits : s.relay.waiting = [])
    (deaf : s.link.receiving = false) : finish order s = journalGoOn s := by
  have tokens : s.supply.power = .run ∧ s.tokens.service = .idle → s.tokens.intake = [] := fun both => absurd both.1 notRun
  have settled : Settled (journalGoOn s) := by
    refine ⟨⟨?_, ?_, fun ⟨works, noFlush, idle⟩ => journalGoOn_settles s works noFlush idle⟩, ?_⟩
    · simpa using tokens
    · exact fun _ => by rw [journalGoOn_relay]; exact noneWaits
    · rw [journalGoOn_link]
      exact fun both => absurd both.1 (by rw [deaf]; decide)
  rw [finish_journalGoOn order s tokens (fun _ => noneWaits), finish_settled order _ settled]

theorem beginHoldover_suspends (s : State) (provisioned : s.provisioning.provisioned = true)
    (works : s.journal.failed = false) :
    beginHoldover s = { enterHoldover s with
      journal := { (enterHoldover s).journal with queue := s.journal.queue ++ [.suspend] } } := by
  unfold beginHoldover
  dsimp only
  rw [if_pos provisioned, if_neg (by rw [works]; decide), submitEntry]
  exact if_neg (by rw [enterHoldover, works]; decide)

theorem beginHoldover_off (s : State) (idle : s.provisioning.inProgress = false)
    (h : s.provisioning.provisioned = false ∨ s.journal.failed = true) :
    beginHoldover s = coreOff (enterHoldover s) := by
  unfold beginHoldover
  dsimp only
  by_cases provisioned : s.provisioning.provisioned = true
  · have failed := h.resolve_left (by rw [provisioned]; decide)
    rw [if_pos provisioned, if_pos failed]
  · rw [if_neg provisioned, if_neg (by rw [idle]; decide)]

/-- At holdover an entry in flight is kept, and the rest is dropped (R70). -/
theorem holdover_intake (u : TokenUnit) :
    u.holdover.intake = if u.service = .inFlight then u.intake.take 1 else [] := by
  unfold TokenUnit.holdover
  split
  case h_1 flying => rw [if_pos flying]
  case h_2 other => rw [if_neg fun flying => other flying]

theorem takeBatteryReading_low (average : Nat) (s : State) (run : s.supply.power = .run)
    (low : batteryReading average < s.levels.cutoff) :
    takeBatteryReading average s = beginHoldover { s with supply.battery := batteryReading average } := by
  simp only [takeBatteryReading, run]
  exact if_pos low

/-- A minute that arrives outside RUN touches the clock and, at a day change, the store's lists (R74, R161). -/
theorem minuteArrives_notRun (s : State) (notRun : s.supply.power ≠ .run) :
    ∃ (c : DayClock) (x : RelayStore), minuteArrives s = { s with domain := { s.domain with clock := c }, relay := x }
      ∧ x.waiting = s.relay.waiting := by
  have untaken (point : ClockTime) (t : State) (same : t.supply = s.supply) : takeTallyPoint point t = t :=
    if_neg fun both => notRun (same ▸ both.1)
  unfold minuteArrives
  dsimp only
  split
  · split
    · exact ⟨_, _, rfl, rfl⟩
    · exact ⟨_, _, rfl, rfl⟩
  · split
    · exact ⟨_, _, untaken _ _ rfl, rfl⟩
    · exact ⟨_, _, untaken _ _ rfl, rfl⟩

/-- At the last second of a minute with the battery low, the sample first: the minute follows the beginning of holdover
(R93, R96). -/
theorem coreSecond_low (x : Sample) (s : State) (run : s.supply.power = .run)
    (low : batteryReading x.battery < s.levels.cutoff) (order : x.order ≠ .minuteFirst) :
    coreSecond x true s =
      minuteArrives (takeBatteryReading x.battery (reportDriven (takeSample x.battery x.currents s))) := by
  have ends : endsRun x.battery s = true := by
    rw [endsRun, decide_eq_true run, decide_eq_true low]
    rfl
  unfold coreSecond
  dsimp only
  split
  case h_1 first => exact absurd first order
  case h_2 =>
    rw [if_pos ends]
    rfl
  case h_3 => rfl

theorem recorded_tokens (x : Sample) (s : State) : (recorded x s).tokens = s.tokens := sampled_tokens x s
theorem recorded_relay (x : Sample) (s : State) : (recorded x s).relay = s.relay := sampled_relay x s
theorem recorded_account (x : Sample) (s : State) : (recorded x s).account = s.account := sampled_account x s
theorem recorded_provisioning (x : Sample) (s : State) : (recorded x s).provisioning = s.provisioning :=
  sampled_provisioning x s

/-- Settles O31: holdover at an early second, and at a minute's last. -/
theorem holdoverBegins : Obligations.HoldoverBegins := by
  refine ⟨fun x s powered early run switching low idle => ?_, fun x s powered last run provisioned works sampling low order => ?_⟩
  · have begins : secondArrives x s = beginHoldover (recorded x s) := by
      rw [secondArrives_early x s powered early (by rw [run]; decide),
        takeBatteryReading_low x.battery (sampled x s) (by rw [sampled_supply, run]) (by rw [sampled_levels]; exact low)]
      rfl
    have comes : exec (.secondEvent x) s = .next (finish .tokenFirst (beginHoldover (recorded x s))) := by
      rw [← begins]
      rfl
    refine ⟨_, comes, fun provisioned works => ?_, fun stops => ?_⟩
    · rw [beginHoldover_suspends _ (by rw [recorded_provisioning]; exact provisioned) (by rw [recorded_journal]; exact works),
        finish_holdover _ _ (by rw [enterHoldover]; exact (nomatch ·)) rfl rfl]
      rw [journalGoOn_supply, journalGoOn_switches, journalGoOn_meter, journalGoOn_link, journalGoOn_digests,
        journalGoOn_relay, journalGoOn_tokens, journalGoOn_account, journalGoOn_queue]
      refine ⟨rfl, rfl, rfl, fun i => ?_, rfl, rfl, rfl, rfl, rfl, rfl, rfl, ?_, ?_, ?_, ?_, ?_⟩
      · have port : (enterHoldover (recorded x s)).switches.ports.get i = (s.switches.ports.get i).newSecond.stop := by
          rw [enterHoldover, perPort_get_map, recorded_port x s i switching]
        exact port ▸ ⟨rfl, rfl, rfl⟩
      · show (recorded x s).relay.records = s.relay.records
        rw [recorded_relay]
      · show (recorded x s).relay.receipts = s.relay.receipts
        rw [recorded_relay]
      · exact congrArg (fun j : Journal => j.queue ++ [.suspend]) (recorded_journal x s)
      · rw [← recorded_tokens x s]
        exact holdover_intake _
      · exact congrArg AccountBlock.acct (recorded_account x s)
    · have off := beginHoldover_off (recorded x s) (by rw [recorded_provisioning]; exact idle)
        (by rw [recorded_provisioning, recorded_journal]; exact stops)
      rw [off, finish_settled _ _ (coreOff_settled _)]
      exact ⟨rfl, rfl, rfl⟩
  · have begins : secondArrives x s = minuteArrives (beginHoldover (recorded x s)) := by
      rw [secondArrives_powered x s powered, if_neg (by rw [run]; decide), decide_eq_true (by omega),
        coreSecond_low x (secondBegins x s) (by rw [secondBegins_supply]; exact run)
          (by rw [levels_of_provisioning _ s (secondBegins_provisioning x s)]; exact low) order]
      exact congrArg minuteArrives (takeBatteryReading_low x.battery (sampled x s) (by rw [sampled_supply, run])
        (by rw [sampled_levels]; exact low))
    have suspends := beginHoldover_suspends (recorded x s) (by rw [recorded_provisioning]; exact provisioned)
      (by rw [recorded_journal]; exact works)
    have voltage : (recorded x s).meter.lastVoltage = min x.battery 20000 := by
      show (sampled x s).meter.lastVoltage = _
      rw [sampled, reportDriven_meter, takeSample_voltage _ _ _ (by rw [secondBegins_meter]; exact sampling)]
      rfl
    obtain ⟨c, store, minute, waiting⟩ := minuteArrives_notRun (beginHoldover (recorded x s)) (by
      rw [suspends]
      exact (nomatch ·))
    have comes : exec (.secondEvent x) s = .next (finish .tokenFirst (minuteArrives (beginHoldover (recorded x s)))) := by
      rw [← begins]
      rfl
    rw [suspends] at minute waiting comes
    rw [minute, finish_holdover _ _ (by exact (nomatch ·)) waiting rfl] at comes
    refine ⟨_, comes, ?_, ?_, ?_, ?_⟩
    · rw [journalGoOn_supply]
      rfl
    · rw [journalGoOn_account]
      exact recorded_account x s
    · rw [journalGoOn_meter]
      exact voltage
    · rw [journalGoOn_queue]
      exact congrArg (fun j : Journal => j.queue ++ [.suspend]) (recorded_journal x s)

/-! ## Tally points (R6, R21, R22) -/

/-- What a sample or a battery reading in RUN leaves of what a tally point touches. -/
structure Apart (s t : State) : Prop where
  account : t.account = s.account
  provisioning : t.provisioning = s.provisioning
  relay : t.relay = s.relay
  clock : t.domain.clock = s.domain.clock
  power : t.supply.power = s.supply.power
  bit : ∀ i, i = 0 ∨ i = 1 ∨ i = 3 → t.link.notices.getLsbD i = s.link.notices.getLsbD i
  switching : t.switches.switching = s.switches.switching
  caps : s.switches.switching = true → ∀ i, (t.switches.ports.get i).accountCap = (s.switches.ports.get i).accountCap

theorem sample_apart (battery : Nat) (currents : PerPort Nat) (s : State) :
    Apart s (reportDriven (takeSample battery currents s)) where
  account := by simp
  provisioning := by simp
  relay := by simp
  clock := by simp
  power := by simp
  bit i low := by
    rw [reportDriven_link, takeSample_otherBit _ _ _ i (by omega)]
  switching := by
    unfold reportDriven onPorts
    split
    · simp
    · simp
  caps on i := by
    rw [reportDriven, onPorts, if_pos (by simpa using on)]
    simp [perPort_get_map, Port.newSecond]

theorem shed_provisioning (v : Nat) (s : State) : (shed v s).provisioning = s.provisioning := by
  unfold shed
  dsimp only
  split
  · rfl
  · simp

theorem shed_switching (v : Nat) (s : State) : (shed v s).switches.switching = s.switches.switching := by
  by_cases same : s.nextShedLevel v = s.supply.shedLevel
  · rw [shed_same v s same]
  · rw [shed_changed v s same, raise_switches, giveShedLevel_switching]

theorem reading_apart (average : Nat) (s : State) (run : s.supply.power = .run)
    (high : s.levels.cutoff ≤ batteryReading average) :
    Apart s (takeBatteryReading average s) ∧ (takeBatteryReading average s).meter = s.meter := by
  rw [takeBatteryReading_run average s run high]
  refine ⟨⟨by rw [shed_account], ?_, by rw [shed_relay], ?_, ?_, fun i low => shed_otherBit _ _ i (by omega),
    ?_, fun _ i => (shed_port_kept _ _ i).1⟩, by rw [shed_meter]⟩
  · rw [shed_provisioning]
  · rw [(shed_kept _ _).1]
  · rw [shed_supply]
  · exact shed_switching _ _

/-- What a tally point makes of the part: the account charged with the counts and its caps and notices given, or, while it is
pinned, the point recorded; and the store's sweep at a day's first minute. -/
structure TallyTaken (counts : PerPort Nat) (point : ClockTime) (s t : State) : Prop where
  charged : s.account.pinned = false →
    t.account = { s.account with
      acct := (tallyAndBoundary s.provisioning.settings counts point s.account.acct).acct }
  bits : s.account.pinned = false → ∀ c : Charged,
    c = tallyAndBoundary s.provisioning.settings counts point s.account.acct →
      t.link.notices.getLsbD 0 = (s.link.notices.getLsbD 0 || decide (c.acct.state ≠ s.account.acct.state))
        ∧ t.link.notices.getLsbD 1 = (s.link.notices.getLsbD 1 || c.lowCredit)
        ∧ t.link.notices.getLsbD 3 = (s.link.notices.getLsbD 3 || c.tariffApplied)
  caps : s.account.pinned = false → s.switches.switching = true → ∀ i, (t.switches.ports.get i).accountCap =
    (accountCaps (tariffOf s.provisioning.settings t.account.acct.activeTariff) t.account.acct).get i
  pending : s.account.pinned = true → t.account = { s.account with pendingTally := some point }
  relay : t.relay = if point.minute = 0 then s.relay.sweep point.day else s.relay

theorem Apart.trans {s t u : State} (first : Apart s t) (last : Apart t u) : Apart s u where
  account := last.account.trans first.account
  provisioning := last.provisioning.trans first.provisioning
  relay := last.relay.trans first.relay
  clock := last.clock.trans first.clock
  power := last.power.trans first.power
  bit i is := (last.bit i is).trans (first.bit i is)
  switching := last.switching.trans first.switching
  caps on i := (last.caps (first.switching.trans on) i).trans (first.caps on i)

theorem Apart.fromTallyTaken {counts : PerPort Nat} {point : ClockTime} {s a t : State} (apart : Apart s a)
    (taken : TallyTaken counts point a t) : TallyTaken counts point s t := by
  obtain ⟨account, provisioning, relay, -, -, bit, switching, -⟩ := apart
  obtain ⟨charged, bits, caps, pending, swept⟩ := taken
  rw [account, provisioning] at charged bits
  rw [bit 0 (by decide), bit 1 (by decide), bit 3 (by decide)] at bits
  rw [account, switching, provisioning] at caps
  rw [account] at pending
  rw [relay] at swept
  exact ⟨charged, bits, caps, pending, swept⟩

theorem TallyTaken.apart {counts : PerPort Nat} {point : ClockTime} {s t u : State}
    (taken : TallyTaken counts point s t) (on : t.switches.switching = s.switches.switching) (apart : Apart t u) :
    TallyTaken counts point s u := by
  obtain ⟨account, -, relay, -, -, bit, -, caps'⟩ := apart
  obtain ⟨charged, bits, caps, pending, swept⟩ := taken
  refine ⟨fun free => account.trans (charged free), fun free c isC => ?_, fun free switching i => ?_,
    fun pinned => account.trans (pending pinned), relay.trans swept⟩
  · rw [bit 0 (by decide), bit 1 (by decide), bit 3 (by decide)]
    exact bits free c isC
  · rw [caps' (on.trans switching) i, account]
    exact caps free switching i

theorem takeCharged_account (c : Charged) (s : State) : (takeCharged c s).account = { s.account with acct := c.acct } := by
  simp [takeCharged]

theorem takeCharged_bits (c : Charged) (s : State) (on : s.supply.power ≠ .off) :
    (takeCharged c s).link.notices.getLsbD 0 =
        (s.link.notices.getLsbD 0 || decide (c.acct.state ≠ s.account.acct.state))
      ∧ (takeCharged c s).link.notices.getLsbD 1 = (s.link.notices.getLsbD 1 || c.lowCredit)
      ∧ (takeCharged c s).link.notices.getLsbD 3 = (s.link.notices.getLsbD 3 || c.tariffApplied) := by
  unfold takeCharged
  simp only [raiseIf_bit, raiseIf_supply, giveCaps_supply, giveCaps_link]
  refine ⟨?_, ?_, ?_⟩
  · by_cases same : c.acct.state = s.account.acct.state
    · simp [NoticeCause.index, same]
    · simp [NoticeCause.index, on, same, Ne.symm same]
  · simp [NoticeCause.index, on]
  · simp [NoticeCause.index, on]

theorem takeCharged_caps (c : Charged) (s : State) (switching : s.switches.switching = true) (i : Fin 4) :
    ((takeCharged c s).switches.ports.get i).accountCap =
      (accountCaps (tariffOf s.provisioning.settings c.acct.activeTariff) c.acct).get i := by
  unfold takeCharged
  simp only [raiseIf_switches]
  rw [giveCaps_port { s with account.acct := c.acct } switching i]
  exact (retarget_kept _).2.2.1

theorem takeCharged_switching (c : Charged) (s : State) :
    (takeCharged c s).switches.switching = s.switches.switching := by
  unfold takeCharged
  simp only [raiseIf_switches]
  exact giveCaps_switching _

/-- A tally performed leaves the link, the account and the switches as its charge does; a TALLY submitted touches the
journal alone. -/
theorem performTally_charges (point : ClockTime) (s : State) :
    (performTally point s).account = (takeCharged
        (tallyAndBoundary s.provisioning.settings s.meter.counts point s.account.acct) s).account
      ∧ (performTally point s).link = (takeCharged
        (tallyAndBoundary s.provisioning.settings s.meter.counts point s.account.acct) s).link
      ∧ (performTally point s).switches = (takeCharged
        (tallyAndBoundary s.provisioning.settings s.meter.counts point s.account.acct) s).switches := by
  unfold performTally
  dsimp only
  split
  · rw [submitTally_account, submitTally_link, submitTally_switches]
    exact ⟨rfl, rfl, rfl⟩
  · exact ⟨rfl, rfl, rfl⟩

/-- What a tally point makes of a part in RUN with its account provisioned, but for the store's sweep (R6, R21). -/
theorem takeTallyPoint_taken (point : ClockTime) (s : State) (run : s.supply.power = .run)
    (open_ : s.account.acct.state ≠ .unprovisioned) :
    ((s.account.pinned = true → takeTallyPoint point s =
        { s with account := { s.account with pendingTally := some point } })
      ∧ (s.account.pinned = false → takeTallyPoint point s = performTally point s)) := by
  unfold takeTallyPoint
  rw [if_pos ⟨run, open_⟩]
  exact ⟨fun pinned => if_pos pinned, fun free => if_neg (by rw [free]; decide)⟩

/-- The clock stands a minute before a tally point. -/
structure BeforePoint (point : ClockTime) (c : DayClock) : Prop where
  set : c.timeSet = true
  free : c.hold = 0
  next : (c.minute ≠ 1439 ∧ point.day = c.day ∧ point.minute = c.minute + 1)
    ∨ (c.minute = 1439 ∧ c.day ≠ 65535 ∧ point.day = c.day + 1 ∧ point.minute = 0)
  quarter : point.minute % 15 = 0

theorem BeforePoint.raises {point : ClockTime} {c : DayClock} (h : BeforePoint point c) :
    c.tallyPointRaised = some point ∧ c.dayChangeRaised = decide (point.minute = 0) ∧ c.minuteArrival.day = point.day := by
  obtain ⟨set, free, next, quarter⟩ := h
  obtain ⟨day, minute⟩ := point
  dsimp only at next quarter
  rcases next with ⟨notLast, rfl, rfl⟩ | ⟨last, notEnd, rfl, rfl⟩
  · simp [DayClock.tallyPointRaised, DayClock.dayChangeRaised, DayClock.advances, DayClock.minuteArrival, DayClock.time, set,
      free, notLast, quarter]
  · simp [DayClock.tallyPointRaised, DayClock.dayChangeRaised, DayClock.advances, DayClock.minuteArrival, DayClock.time, set,
      free, last, notEnd]

/-- A minute that brings a tally point, in RUN with the account provisioned. -/
theorem minuteArrives_taken (point : ClockTime) (s : State) (run : s.supply.power = .run)
    (open_ : s.account.acct.state ≠ .unprovisioned) (before : BeforePoint point s.domain.clock) :
    TallyTaken s.meter.counts point s (minuteArrives s)
      ∧ (minuteArrives s).switches.switching = s.switches.switching ∧ (minuteArrives s).meter = s.meter
      ∧ (minuteArrives s).provisioning = s.provisioning ∧ (minuteArrives s).supply = s.supply := by
  obtain ⟨raised, dayChange, day⟩ := before.raises
  have arrives : ∃ (c : DayClock) (x : RelayStore), minuteArrives s = takeTallyPoint point
        { s with domain := { s.domain with clock := c }, relay := x }
      ∧ x = if point.minute = 0 then s.relay.sweep point.day else s.relay := by
    unfold minuteArrives
    dsimp only
    rw [raised, dayChange, day]
    by_cases first : point.minute = 0
    · rw [decide_eq_true first, if_pos rfl, if_pos first]
      exact ⟨_, _, rfl, rfl⟩
    · rw [decide_eq_false first, if_neg (by decide), if_neg first]
      exact ⟨_, _, rfl, rfl⟩
  obtain ⟨c, x, arrives, swept⟩ := arrives
  obtain ⟨pinned, free⟩ := takeTallyPoint_taken point { s with domain := { s.domain with clock := c }, relay := x } run open_
  obtain ⟨account, link, switches⟩ := performTally_charges point
    { s with domain := { s.domain with clock := c }, relay := x }
  refine ⟨⟨fun isFree => ?_, fun isFree charge isCharge => ?_, fun isFree switching i => ?_, fun isPinned => ?_, ?_⟩, ?_,
    ?_, ?_, ?_⟩
  · rw [arrives, free isFree, account, takeCharged_account]
  · rw [arrives, free isFree, link, isCharge]
    exact takeCharged_bits _ { s with domain := { s.domain with clock := c }, relay := x } (by rw [run]; decide)
  · rw [arrives, free isFree, account, switches, takeCharged_account]
    exact takeCharged_caps _ { s with domain := { s.domain with clock := c }, relay := x } switching i
  · rw [arrives, pinned isPinned]
  · rw [arrives, takeTallyPoint_relay]
    exact swept
  · cases isPinned : s.account.pinned with
    | true => rw [arrives, pinned isPinned]
    | false =>
      rw [arrives, free isPinned, switches]
      exact takeCharged_switching _ _
  · rw [arrives, takeTallyPoint_meter]
  · rw [arrives, takeTallyPoint_provisioning]
  · rw [arrives, takeTallyPoint_supply]

/-- The last second of a minute that brings a tally point, in each of its three orders (R93, R96). -/
theorem coreSecond_taken (x : Sample) (point : ClockTime) (s : State) (run : s.supply.power = .run)
    (open_ : s.account.acct.state ≠ .unprovisioned) (before : BeforePoint point s.domain.clock)
    (high : s.levels.cutoff ≤ batteryReading x.battery) :
    TallyTaken (if x.order = .minuteFirst then s.meter.counts else (coreSecond x true s).meter.counts) point s
      (coreSecond x true s) := by
  have sample (t : State) := sample_apart x.battery x.currents t
  have reading (t : State) (run : t.supply.power = .run) (same : t.provisioning = s.provisioning) :=
    reading_apart x.battery t run (by rw [levels_of_provisioning t s same]; exact high)
  cases order : x.order with
  | minuteFirst =>
    have second : coreSecond x true s =
        takeBatteryReading x.battery (reportDriven (takeSample x.battery x.currents (minuteArrives s))) := by
      simp only [coreSecond, order]
      rfl
    rw [if_pos rfl, second]
    obtain ⟨taken, switching, -, provisioning, supply⟩ := minuteArrives_taken point s run open_ before
    have after := sample (minuteArrives s)
    have last := reading _ (after.power.trans (supply ▸ run)) (after.provisioning.trans provisioning)
    exact (taken.apart switching after).apart (after.switching.trans switching) last.1
  | minuteMiddle =>
    have goesOn : endsRun x.battery s = false := by
      rw [endsRun, decide_eq_false (by omega : ¬ batteryReading x.battery < s.levels.cutoff), Bool.and_false]
    have second : coreSecond x true s =
        takeBatteryReading x.battery (minuteArrives (reportDriven (takeSample x.battery x.currents s))) := by
      simp only [coreSecond, order, goesOn]
      rfl
    rw [if_neg (by decide), second]
    have first := sample s
    obtain ⟨taken, switching, meter, provisioning, supply⟩ := minuteArrives_taken point
      (reportDriven (takeSample x.battery x.currents s)) (first.power.trans run) (first.account ▸ open_) (first.clock ▸ before)
    obtain ⟨last, counted⟩ := reading _ ((congrArg Supply.power supply).trans (first.power.trans run))
      (provisioning.trans first.provisioning)
    rw [counted, meter]
    exact (first.fromTallyTaken taken).apart (switching.trans first.switching) last
  | minuteLast =>
    have second : coreSecond x true s =
        minuteArrives (takeBatteryReading x.battery (reportDriven (takeSample x.battery x.currents s))) := by
      simp only [coreSecond, order]
      rfl
    rw [if_neg (by decide), second]
    have first := sample s
    have last := (reading _ (first.power.trans run) first.provisioning).1
    have both := first.trans last
    obtain ⟨taken, -, meter, -, -⟩ := minuteArrives_taken point _ (both.power.trans run) (both.account ▸ open_)
      (both.clock ▸ before)
    rw [meter]
    exact both.fromTallyTaken taken

theorem secondBegins_clock (x : Sample) (s : State) (last : s.domain.clock.second = 59) :
    (secondBegins x s).domain.clock = { s.domain.clock with second := 0 } := by
  rw [secondBegins, measureBackup_domain, advanceSecond_clock, if_pos (by omega)]

/-- The end of an event leaves the store as it is where no request of it can be taken. -/
theorem finish_relay (s : State) (settled : s.relay.service = none ∧ s.domain.clock.timeSet = true → s.relay.waiting = []) :
    (finish .tokenFirst s).relay = s.relay := by
  have same : settleStore (settleTokens s) = settleTokens s :=
    serveStore_of_settled _ _ (by simpa only [settleTokens, serveTokens_relay, serveTokens_domain] using settled)
  simp only [finish, settleUnits, journalGoOn_relay, same]
  exact serveTokens_relay _ _

theorem tallyAndBoundary_tariffApplied (f : Settings) (counts : PerPort Nat) (point : ClockTime) (a : Account)
    (first : point.minute = 0) (staged : a.stagedTariff ≠ none) :
    (tallyAndBoundary f counts point a).tariffApplied = true := by
  rw [tallyAndBoundary, decide_eq_true first, withBoundary, if_pos rfl]
  dsimp only
  rw [(tallyAccount_tariffs _ _ _ _).2]
  exact Option.isSome_iff_ne_none.2 staged

/-- The calendar time at the point that its clock stood before. -/
theorem BeforePoint.arrives {point : ClockTime} {c : DayClock} (before : BeforePoint point { c with second := 0 }) :
    ({ c with second := 0 } : DayClock).afterMinute = { c with
      day := point.day, minute := point.minute, second := 0
      anchorAge := if c.minute = 1439 then min (c.anchorAge + 1) 65535 else c.anchorAge } := by
  obtain ⟨set, free, next, -⟩ := before
  rcases next with ⟨notLast, day, minute⟩ | ⟨last, notEnd, day, minute⟩
  · rw [afterMinute_minute _ set free notLast, if_neg notLast, day, minute]
  · rw [afterMinute_day _ set free last notEnd, if_pos last, day, minute]

/-- Settles O30, through what a tally point makes of the part and the end of the event, which touches none of it. -/
theorem tallyPointsAreTaken : Obligations.TallyPointsAreTaken := by
  intro x s day minute powered last set free next quarter run open_ high
  have clock := secondBegins_clock x s last
  have before : BeforePoint ⟨day, minute⟩ { s.domain.clock with second := 0 } := ⟨set, free, next, quarter⟩
  have arrives : secondArrives x s = coreSecond x true (secondBegins x s) := by
    rw [secondArrives_powered x s powered, if_neg (by rw [run]; decide), decide_eq_true (by omega)]
  have taken := coreSecond_taken x ⟨day, minute⟩ (secondBegins x s) (by rw [secondBegins_supply]; exact run)
    (by rw [secondBegins_account]; exact open_) (by rw [clock]; exact before)
    (by rw [levels_of_provisioning _ s (secondBegins_provisioning x s)]; exact high)
  rw [← arrives] at taken
  obtain ⟨charged, bits, caps, pending, relay⟩ := taken
  simp only [secondBegins_account, secondBegins_provisioning, secondBegins_meter, secondBegins_switches, secondBegins_relay,
    secondBegins_bit x s 0 (by decide), secondBegins_bit x s 1 (by decide), secondBegins_bit x s 3 (by decide)]
    at charged bits caps pending relay
  have domain := congrArg ClockDomain.clock (secondArrives_kept x s powered (Or.inl (by rw [run]; decide))).1
  simp only [ClockDomain.afterSecond, last, le_refl, ↓reduceIte] at domain
  rw [before.arrives] at domain
  refine ⟨finish .tokenFirst (secondArrives x s), rfl, ?_⟩
  rw [finish_account, finish_meter, finish_switches, finish_domain, finish_bit _ _ 0 (by decide), finish_bit _ _ 1 (by decide),
    finish_bit _ _ 3 (by decide)]
  refine ⟨fun isFree => ⟨charged isFree, fun first staged => ?_, bits isFree, caps isFree⟩, pending, domain, fun settled => ?_⟩
  · rw [(bits isFree _ rfl).2.2, tallyAndBoundary_tariffApplied _ _ _ _ first staged, Bool.or_true]
  · rw [finish_relay, relay]
    · rfl
    · rw [relay, domain]
      refine fun ⟨idle, timed⟩ => ?_
      have waiting := settled.1.2.1
      split at idle
      · rw [if_pos ‹_›]
        exact waiting ⟨idle, timed⟩
      · rw [if_neg ‹_›]
        exact waiting ⟨idle, timed⟩

end Sys2Proof.Machine
end

section
/-! What replay finds (O55). -/

namespace Sys2Proof.Machine

/-- A slot 0 that holds no valid CHECKPOINT heads no sector (R144). -/
theorem sectorHead_eq_some_iff (f : Flash) (sector : Nat) (x : SectorHead) :
    sectorHead f sector = some x ↔ x.sector = sector ∧ (flashRead f (sector * 60)).valid = some x.entry
      ∧ x.entry.kind = .checkpoint x.window x.bad := by
  obtain ⟨n, entry, window, bad⟩ := x
  unfold sectorHead slotNumber
  rw [Nat.add_zero]
  split
  case h_1 invalid => simp [invalid]
  case h_2 e valid =>
    rw [valid]
    split
    case h_1 w b checkpoint =>
      simp only [Option.some.injEq, SectorHead.mk.injEq]
      constructor
      · rintro ⟨rfl, rfl, rfl, rfl⟩
        exact ⟨rfl, rfl, checkpoint⟩
      · rintro ⟨rfl, rfl, kind⟩
        obtain ⟨rfl, rfl⟩ := EntryKind.checkpoint.inj (checkpoint.symm.trans kind)
        exact ⟨rfl, rfl, rfl, rfl⟩
    case h_2 other =>
      refine ⟨(nomatch ·), ?_⟩
      rintro ⟨-, same, kind⟩
      obtain rfl := Option.some.inj same
      exact absurd kind (other window bad)

theorem servingHead_none (f : Flash) (noHead : ∀ sector < 8, ∀ e, (flashRead f (sector * 60)).valid = some e →
    ∀ w bad, e.kind ≠ .checkpoint w bad) : servingHead f = none := by
  have heads : (List.range 8).filterMap (sectorHead f) = [] := by
    refine List.filterMap_eq_nil_iff.2 fun sector inRange => Option.eq_none_iff_forall_ne_some.2 fun x head => ?_
    obtain ⟨-, valid, kind⟩ := (sectorHead_eq_some_iff f sector x).1 head
    exact noHead sector (List.mem_range.1 inRange) x.entry valid _ _ kind
  rw [servingHead, heads]

/-- Of some heads the one above all the others is chosen (R144). -/
theorem foldl_higherHead_eq (heads : List SectorHead) (x h : SectorHead) (among : h ∈ x :: heads)
    (above : ∀ y ∈ x :: heads, y = h ∨ y.entry.sequence < h.entry.sequence) : heads.foldl higherHead x = h := by
  induction heads generalizing x with
  | nil => exact (List.mem_singleton.1 among).symm
  | cons y rest ih =>
    have first := above x List.mem_cons_self
    have second := above y (List.mem_cons_of_mem _ List.mem_cons_self)
    have others : ∀ z ∈ rest, z = h ∨ z.entry.sequence < h.entry.sequence := fun z inRest =>
      above z (List.mem_cons_of_mem _ (List.mem_cons_of_mem _ inRest))
    have higher : higherHead x y = h ∨ (higherHead x y = x ∧ h ∈ rest ∨ higherHead x y = y ∧ h ∈ rest) := by
      unfold higherHead
      rcases List.mem_cons.1 among with rfl | among
      · rcases second with rfl | below
        · exact .inl (ite_self _)
        · exact .inl (if_neg (by omega))
      · rcases List.mem_cons.1 among with rfl | among
        · rcases first with rfl | below
          · exact .inl (ite_self _)
          · exact .inl (if_pos below)
        · split
          · exact .inr (.inr ⟨rfl, among⟩)
          · exact .inr (.inl ⟨rfl, among⟩)
    refine ih (higherHead x y) ?_ fun z => ?_
    · rcases higher with same | ⟨-, inRest⟩ | ⟨-, inRest⟩
      · rw [same]
        exact List.mem_cons_self
      · exact List.mem_cons_of_mem _ inRest
      · exact List.mem_cons_of_mem _ inRest
    · rw [List.mem_cons]
      rintro (rfl | inRest)
      · rcases higher with same | ⟨same, -⟩ | ⟨same, -⟩
        · exact .inl same
        · rw [same]
          exact first
        · rw [same]
          exact second
      · exact others z inRest

theorem servingHead_eq (f : Flash) (h : SectorHead) (sector : h.sector < 8)
    (valid : (flashRead f (h.sector * 60)).valid = some h.entry) (kind : h.entry.kind = .checkpoint h.window h.bad)
    (above : ∀ other < 8, other ≠ h.sector → ∀ e, (flashRead f (other * 60)).valid = some e →
      (∃ w b, e.kind = .checkpoint w b) → e.sequence < h.entry.sequence) : servingHead f = some h := by
  have head : sectorHead f h.sector = some h := (sectorHead_eq_some_iff f _ _).2 ⟨rfl, valid, kind⟩
  have among : h ∈ (List.range 8).filterMap (sectorHead f) :=
    List.mem_filterMap.2 ⟨h.sector, List.mem_range.2 sector, head⟩
  have others : ∀ y ∈ (List.range 8).filterMap (sectorHead f), y = h ∨ y.entry.sequence < h.entry.sequence := by
    intro y inHeads
    obtain ⟨other, inRange, isHead⟩ := List.mem_filterMap.1 inHeads
    obtain ⟨-, validY, kindY⟩ := (sectorHead_eq_some_iff f other y).1 isHead
    by_cases same : other = h.sector
    · rw [same, head] at isHead
      exact .inl (Option.some.inj isHead).symm
    · exact .inr (above other (List.mem_range.1 inRange) same y.entry validY ⟨_, _, kindY⟩)
  unfold servingHead
  split
  case h_1 empty => rw [empty] at among; exact absurd among List.not_mem_nil
  case h_2 x rest heads =>
    rw [heads] at among others
    exact congrArg some (foldl_higherHead_eq rest x h among others)

/-- Entries that continue a walk from a slot on, each with the next sequence (R145). -/
def WalkedFrom (f : Flash) (first : Nat) (newest : Entry) (walked : List Entry) : Prop :=
  ∀ i e, walked[i]? = some e → (flashRead f (first + i)).valid = some e
    ∧ e.sequence = newest.sequence + 1 + i ∧ ∀ w b, e.kind ≠ .checkpoint w b

theorem continues_iff (newest e : Entry) :
    continues newest e = true ↔ e.sequence = newest.sequence + 1 ∧ ∀ w b, e.kind ≠ .checkpoint w b := by
  unfold continues
  split
  case h_1 w b checkpoint => simp [checkpoint]
  case h_2 other =>
    rw [decide_eq_true_iff]
    exact ⟨fun next => ⟨next, other⟩, And.left⟩

theorem walkedFrom_cons (f : Flash) (first : Nat) (newest e : Entry) (rest : List Entry)
    (walks : WalkedFrom f first newest (e :: rest)) :
    (flashRead f first).valid = some e ∧ continues newest e = true ∧ WalkedFrom f (first + 1) e rest := by
  obtain ⟨valid, sequence, kind⟩ := walks 0 e rfl
  refine ⟨valid, (continues_iff newest e).2 ⟨sequence, kind⟩, fun i x at_ => ?_⟩
  obtain ⟨validX, sequenceX, kindX⟩ := walks (i + 1) x (by rw [List.getElem?_cons_succ]; exact at_)
  refine ⟨?_, by omega, kindX⟩
  rw [← validX, show first + 1 + i = first + (i + 1) by omega]

/-- The walk takes every entry that continues it, and stops at the slot after them (R145, R146). -/
theorem walkSlots_walked (f : Flash) (sector : Nat) (walked : List Entry) (n slot : Nat) (newest : Entry) (w : Window)
    (walks : WalkedFrom f (slotNumber sector slot) newest walked) (fits : walked.length ≤ n)
    (stops : walked.length < n → ∀ e, (flashRead f (slotNumber sector slot + walked.length)).valid = some e →
      e.sequence = newest.sequence + 1 + walked.length → ∃ w b, e.kind = .checkpoint w b) :
    walkSlots f sector n slot newest w =
      ⟨walked.getLast?.getD newest, walked.foldl (fun w e => markReplayed e.kind w) w, slot + walked.length,
        decide (walked.length < n ∧ flashRead f (slotNumber sector slot + walked.length) ≠ .blank)⟩ := by
  induction walked generalizing n slot newest w with
  | nil =>
    cases n with
    | zero => rfl
    | succ n =>
      unfold walkSlots
      dsimp only
      split
      case h_1 e valid =>
        have ends : continues newest e = false := by
          refine Bool.eq_false_iff.2 fun goesOn => ?_
          obtain ⟨next, notHead⟩ := (continues_iff newest e).1 goesOn
          obtain ⟨w, b, kind⟩ := stops (Nat.succ_pos n) e valid next
          exact notHead w b kind
        have written : flashRead f (slotNumber sector slot) ≠ .blank := fun blank => by rw [blank] at valid; cases valid
        rw [ends, if_neg (by decide)]
        simp [written]
      case h_2 => simp
  | cons e rest ih =>
    obtain ⟨valid, goesOn, walksOn⟩ := walkedFrom_cons f _ newest e rest walks
    obtain ⟨n, rfl⟩ := Nat.exists_eq_succ_of_ne_zero (fun (none : n = 0) => by simp [none] at fits)
    have next : slotNumber sector (slot + 1) = slotNumber sector slot + 1 := rfl
    have sequence := ((continues_iff newest e).1 goesOn).1
    rw [walkSlots]
    rw [valid]
    dsimp only
    rw [if_pos goesOn, ih n (slot + 1) e _ walksOn (Nat.le_of_succ_le_succ fits) fun below x validX sequenceX => ?_]
    · have shift : slotNumber sector (slot + 1) + rest.length = slotNumber sector slot + (e :: rest).length := by
        rw [next, List.length_cons]; omega
      rw [shift, List.foldl_cons]
      congr 1
      · cases rest with
        | nil => rfl
        | cons x xs => rw [List.getLast?_cons_cons, List.getLast?_cons, Option.getD_some, Option.getD_some]
      · rw [List.length_cons]; omega
      · exact decide_eq_decide.2 (and_congr_left' Nat.succ_lt_succ_iff.symm)
    · refine stops (Nat.succ_lt_succ below) x ?_ (by rw [List.length_cons]; omega)
      rw [← validX, next, List.length_cons]
      congr 2
      omega

theorem walked_sequence (f : Flash) (first : Nat) (head : Entry) (walked : List Entry)
    (walks : WalkedFrom f first head walked) : (walked.getLast?.getD head).sequence = head.sequence + walked.length := by
  rw [List.getLast?_eq_getElem?]
  cases walked with
  | nil => rfl
  | cons e rest =>
    have last := List.getElem?_eq_getElem (l := e :: rest) (i := rest.length) (Nat.lt_succ_self _)
    obtain ⟨-, sequence, -⟩ := walks _ _ last
    rw [List.length_cons, Nat.add_sub_cancel, last, Option.getD_some, sequence]
    omega

theorem strayAbove_iff (f : Flash) (sequence : Nat) :
    strayAbove f sequence = true ↔ ∃ x ∈ f, ∃ e, x.2.valid = some e ∧ sequence < e.sequence := by
  simp [strayAbove, List.any_eq_true, Option.any_eq_true]

/-- Settles O55: the serving head, the walk from it, and whether it moves on. -/
theorem replayFinds : Obligations.ReplayFinds := by
  refine ⟨fun s noHead => ?_, ?_⟩
  · rw [runReplay, servingHead_none s.flash noHead]
  intro s sector head newest window bad walked found stop dirty inRange valid kind above fits walks isStop stops isNewest
    isFound isDirty good
  have serving := servingHead_eq s.flash ⟨sector, head, window, bad⟩ inRange valid kind above
  have walk := walkSlots_walked s.flash sector walked 59 1 head window walks fits (fun below => isStop ▸ stops below)
  have sequence : newest.sequence = head.sequence + walked.length := by
    rw [isNewest]
    exact walked_sequence s.flash _ head walked walks
  have marks : walked.foldl (fun w e => markReplayed e.kind w) window = found.window := by
    rw [isFound]
    refine congrArg (fun f => walked.foldl f window) (funext fun w => funext fun e => ?_)
    unfold markReplayed
    cases e.kind <;> rfl
  have isFound' : (⟨newest.snapshot, newest.time, found.window⟩ : Found) = found := by rw [isFound]
  have moves : (decide (walked.length < 59 ∧ stop ≠ .blank) || strayAbove s.flash newest.sequence) = true ↔ dirty := by
    rw [isDirty, Bool.or_eq_true, decide_eq_true_iff, strayAbove_iff]
  rw [marks, ← isNewest] at walk
  have stopAt : flashRead s.flash (slotNumber sector 1 + walked.length) = stop := isStop.symm
  rw [stopAt] at walk
  constructor
  · intro clean
    rw [runReplay, serving]
    dsimp only
    rw [walk, if_neg (by omega), if_neg (fun both => clean (moves.1 both))]
    dsimp only
    rw [isFound', sequence]
  · intro isDirty
    rw [runReplay, serving]
    dsimp only
    rw [walk, if_neg (by omega), if_pos (moves.2 isDirty)]
    dsimp only
    rw [isFound', sequence]
    rfl

end Sys2Proof.Machine
end

section
/-! What ends a flash operation, and the erases that head a sector (O53). -/

namespace Sys2Proof.Machine

/-! ## Held requests (R148) -/

theorem foldl_answerHistory_eq (held : List Request) (s : State) :
    held.foldl answerHistory s = { s with link := (held.foldl answerHistory s).link } := by
  induction held generalizing s with
  | nil => rfl
  | cons req held ih =>
    rw [List.foldl_cons, ih (answerHistory s req), answerHistory, answer, completeReply_eq]

theorem foldl_answerHistory_notices (held : List Request) (s : State) :
    (held.foldl answerHistory s).link.notices = s.link.notices := by
  induction held generalizing s with
  | nil => rfl
  | cons req held ih => rw [List.foldl_cons, ih, answerHistory, answer, completeReply_notices]

theorem serveHeldHistory_quiet (s : State) (quiet : s.supply.power ≠ .run ∨ s.journal.held = []) :
    serveHeldHistory s = s := by
  unfold serveHeldHistory
  split
  case isTrue run =>
    have noneHeld := quiet.resolve_left (not_not.2 run)
    rw [noneHeld]
    show { s with journal := { s.journal with held := [] } } = s
    rw [← noneHeld]
  case isFalse => rfl

/-- Serving the held HISTORY requests touches the list of them and the link (R148). -/
theorem serveHeldHistory_eq (s : State) :
    serveHeldHistory s = { s with
      journal := { s.journal with held := if s.supply.power = .run then [] else s.journal.held }
      link := (serveHeldHistory s).link } := by
  by_cases run : s.supply.power = .run
  · rw [if_pos run, serveHeldHistory, if_pos run, foldl_answerHistory_eq]
  · rw [if_neg run, serveHeldHistory_quiet s (.inl run)]

theorem serveHeldHistory_notices (s : State) : (serveHeldHistory s).link.notices = s.link.notices := by
  unfold serveHeldHistory
  split
  · rw [foldl_answerHistory_notices]
  · rfl

/-! ## The end of an event that the flash brought -/

/-- A change of the flash, the journal and the link leaves the units settled where the journal can take nothing up. -/
theorem UnitsSettled.withJournal {s : State} (settled : UnitsSettled s) (flash : Flash) (journal : Journal) (link : Link)
    (h : journal.failed = false ∧ journal.flushWait = false ∧ journal.op = .none → journal.queue = []) :
    UnitsSettled { s with flash, journal, link } := ⟨settled.1, settled.2.1, h⟩

theorem journalGoOn_eq (s : State) :
    journalGoOn s = { s with journal := { s.journal with op := (journalGoOn s).journal.op } } := by
  unfold journalGoOn
  split
  · rfl
  · split
    · rfl
    · split <;> rfl

/-- The end of an event after which only the journal can have work to take up. -/
theorem finish_goesOn (order : DigestOrder) (s : State)
    (tokens : s.supply.power = .run ∧ s.tokens.service = .idle → s.tokens.intake = [])
    (store : s.relay.service = none ∧ s.domain.clock.timeSet = true → s.relay.waiting = []) :
    finish order s = { s with
      journal := { s.journal with op := (journalGoOn s).journal.op }
      link := s.link.pump } := by
  have goesOn := journalGoOn_eq s
  have units : UnitsSettled (journalGoOn s) := by
    refine ⟨?_, ?_, fun ⟨works, noFlush, idle⟩ => journalGoOn_settles s works noFlush idle⟩
    · rw [journalGoOn_supply, journalGoOn_tokens]
      exact tokens
    · rw [journalGoOn_relay, journalGoOn_domain]
      exact store
  rw [finish_journalGoOn order s tokens store, finish_unitsSettled order _ units, journalGoOn_link]
  exact congrArg (fun t : State => { t with link := s.link.pump }) goesOn

/-! ## Erases (R139, R146) -/

/-- The part with its flash operation ended, the flash and the bad-sector set as the operation left them. -/
def operationEnded (flash : Flash) (bad : BitVec 8) (s : State) : State :=
  { s with flash := flash, journal := { s.journal with bad := bad, op := .none } }

theorem erasePassed_heads (sector : Nat) (s : State) (given : s.supply.givenUp = false) (other : s.journal.work ≠ .ringErase) :
    erasePassed sector s =
      beginHead sector (serveHeldHistory (operationEnded (flashErase s.flash sector) s.journal.bad s)) := by
  have work : (serveHeldHistory (operationEnded (flashErase s.flash sector) s.journal.bad s)).journal.work
      = s.journal.work := by
    rw [serveHeldHistory_eq]
    rfl
  have supply : (serveHeldHistory (operationEnded (flashErase s.flash sector) s.journal.bad s)).supply.givenUp = false :=
    (congrArg Supply.givenUp (serveHeldHistory_supply _)).trans given
  exact (if_neg (Bool.eq_false_iff.1 supply)).trans (if_neg fun ring => other (work.symm.trans ring))

/-- Settles O53: the erase, the held requests, and the checkpoint begun. -/
theorem erasesHeadTheSector : Obligations.ErasesHeadTheSector := by
  intro sector left head s settled erasing given works isHead
  have other : s.journal.work ≠ .ringErase := by
    rcases isHead with ⟨work, -⟩ | ⟨found, work, -⟩ <;> rw [work] <;> exact (nomatch ·)
  have served := serveHeldHistory_eq (operationEnded (flashErase s.flash sector) s.journal.bad s)
  generalize isLink : (serveHeldHistory (operationEnded (flashErase s.flash sector) s.journal.bad s)).link = link at served
  have ends : eraseEnd true left s = { s with
      flash := flashErase s.flash sector
      journal := { s.journal with
        sector := sector, nextSlot := 0, op := .head head
        held := if s.supply.power = .run then [] else s.journal.held }
      link := link } := by
    rw [eraseEnd, erasing]
    dsimp only
    rw [if_pos rfl, erasePassed_heads sector s given other, served, beginHead, headEntry]
    dsimp only [operationEnded]
    rcases isHead with ⟨work, rfl⟩ | ⟨found, work, rfl⟩ <;> rw [work] <;> rfl
  have units := settled.1.withJournal (flashErase s.flash sector) { s.journal with
    sector := sector, nextSlot := 0, op := .head head
    held := if s.supply.power = .run then [] else s.journal.held } link (by exact fun free => (nomatch free.2.2))
  refine ⟨_, exec_unitsSettled (.sectorEraseEnd true left) s _ _ rfl ends units, fun k => flashRead_flashErase _ _ _,
    fun run => ?_, fun quiet => ?_, ?_, rfl⟩
  · have answers := (serveHeldHistory_answers (operationEnded (flashErase s.flash sector) s.journal.bad s) run).2.1
    rw [isLink] at answers
    exact fun r held wanted => (answers r held wanted).pump
  · have same : link = s.link := by
      rw [← isLink, serveHeldHistory_quiet (operationEnded _ _ s) quiet]
      rfl
    show link.pump = s.link
    rw [same]
    exact pump_of_settled _ settled.2
  · show link.pump.notices = s.link.notices
    rw [pump_notices, ← isLink, serveHeldHistory_notices]
    rfl

end Sys2Proof.Machine
end

section
/-! The pin released, and the failures of the flash (O54). -/

namespace Sys2Proof.Machine

/-- Two states are equal that agree in every field. -/
theorem state_ext {s t : State} (pending : s.pending = t.pending) (provisioning : s.provisioning = t.provisioning)
    (flash : s.flash = t.flash) (domain : s.domain = t.domain) (account : s.account = t.account)
    (tokens : s.tokens = t.tokens) (digests : s.digests = t.digests) (meter : s.meter = t.meter)
    (switches : s.switches = t.switches) (supply : s.supply = t.supply) (journal : s.journal = t.journal)
    (relay : s.relay = t.relay) (link : s.link = t.link) (idle : s.idleMilliseconds = t.idleMilliseconds) : s = t := by
  cases s
  cases t
  dsimp only at *
  subst pending provisioning flash domain account tokens digests meter switches supply journal relay link idle
  rfl

/-! ## Causes raised on a condition -/

theorem raiseIf_notices (b : Bool) (c : NoticeCause) (s : State) (on : s.supply.power ≠ .off) :
    (raiseIf b c s).link.notices = s.link.notices ||| if b then causeBit c else 0 := by
  cases b with
  | false => exact (BitVec.or_zero).symm
  | true => exact raise_notices c s on

theorem raiseIf_replies (b : Bool) (c : NoticeCause) (s : State) : (raiseIf b c s).link.replies = s.link.replies := by
  cases b with
  | false => rfl
  | true => rw [raiseIf, if_pos rfl, raise_replies]

theorem raiseIf_completed (b : Bool) (c : NoticeCause) (s : State) :
    (raiseIf b c s).link.completed = s.link.completed := by
  cases b with
  | false => rfl
  | true => rw [raiseIf, if_pos rfl, raise_completed]

/-! ## Charges taken (R24, R25, R33) -/

theorem takeCharged_replies (c : Charged) (s : State) : (takeCharged c s).link.replies = s.link.replies := by
  simp only [takeCharged, raiseIf_replies, giveCaps_link]

theorem takeCharged_completed (c : Charged) (s : State) : (takeCharged c s).link.completed = s.link.completed := by
  simp only [takeCharged, raiseIf_completed, giveCaps_link]

/-- The causes that a change of the account calls for: ACCOUNT_STATE, LOW_CREDIT and TARIFF_APPLIED (R25, R33). -/
def chargeCauses (changed low applied : Prop) [Decidable changed] [Decidable low] [Decidable applied] : BitVec 16 :=
  (if changed then 0x0001#16 else 0) ||| (if low then 0x0002#16 else 0) ||| (if applied then 0x0008#16 else 0)

theorem takeCharged_notices (c : Charged) (s : State) (on : s.supply.power ≠ .off) :
    (takeCharged c s).link.notices = s.link.notices |||
      chargeCauses (s.account.acct.state ≠ c.acct.state) (c.lowCredit = true) (c.tariffApplied = true) := by
  unfold takeCharged chargeCauses
  rw [raiseIf_notices _ _ _ (by simpa using on), raiseIf_notices _ _ _ (by simpa using on),
    raiseIf_notices _ _ _ (by simpa using on)]
  simp only [giveCaps_link, decide_eq_true_eq, BitVec.or_assoc]
  rfl

/-! ## The pin released (R22, R62) -/

theorem after_iff (a b : ClockTime) : a.laterThan b = true ↔ After a b := by
  simp [ClockTime.laterThan, After]

/-- The tally that the release of a pin performs in RUN, or none: a pending point is charged that is later than the
account's time of last tally (R22). -/
def PinTally (last : Charged) (s : State) : Prop :=
  (∃ point, s.account.pendingTally = some point ∧ After point s.account.acct.lastTally
      ∧ last = tallyAndBoundary s.provisioning.settings s.meter.counts point s.account.acct)
    ∨ ((∀ point, s.account.pendingTally = some point → ¬After point s.account.acct.lastTally)
      ∧ last = ⟨s.account.acct, false, false⟩)

/-- What the release of the pin makes of the part. -/
structure PinReleased (last : Charged) (s t : State) : Prop where
  account : t.account = { s.account with acct := last.acct, pinned := false, pendingTally := none }
  notices : t.link.notices = s.link.notices |||
    chargeCauses (s.account.acct.state ≠ last.acct.state) (last.lowCredit = true) (last.tariffApplied = true)
  replies : t.link.replies = s.link.replies
  completed : t.link.completed = s.link.completed
  journal : s.journal.failed = true → t.journal = s.journal
  caps : s.switches.switching = true →
    (∀ i, (s.switches.ports.get i).accountCap =
      (accountCaps (tariffOf s.provisioning.settings s.account.acct.activeTariff) s.account.acct).get i) →
    ∀ i, (t.switches.ports.get i).accountCap =
      (accountCaps (tariffOf s.provisioning.settings last.acct.activeTariff) last.acct).get i

theorem submitTally_failed (restart : Bool) (s : State) (failed : s.journal.failed = true) : submitTally restart s = s :=
  if_pos failed

theorem performTally_journal_failed (point : ClockTime) (s : State) (failed : s.journal.failed = true) :
    (performTally point s).journal = s.journal := by
  unfold performTally
  dsimp only
  rw [submitTally_failed _ _ (by rw [takeCharged_journal]; exact failed), ite_self, takeCharged_journal]

theorem releasePin_tally (point : ClockTime) (s : State) (run : s.supply.power = .run)
    (pending : s.account.pendingTally = some point) (later : After point s.account.acct.lastTally) :
    releasePin s = performTally point
      { s with account := { s.account with pinned := false, pendingTally := none } } := by
  unfold releasePin
  rw [pending]
  exact if_pos ⟨run, (after_iff _ _).2 later⟩

theorem releasePin_discards (s : State)
    (none_ : s.supply.power ≠ .run ∨ ∀ point, s.account.pendingTally = some point → ¬After point s.account.acct.lastTally) :
    releasePin s = { s with account := { s.account with pinned := false, pendingTally := none } } := by
  unfold releasePin
  cases pending : s.account.pendingTally with
  | none => rfl
  | some point =>
    exact if_neg fun ⟨run, later⟩ =>
      (none_.resolve_left (not_not.2 run)) point pending ((after_iff _ _).1 later)

theorem releasePin_released (last : Charged) (s : State) (run : s.supply.power = .run) (tally : PinTally last s) :
    PinReleased last s (releasePin s) := by
  rcases tally with ⟨point, pending, later, rfl⟩ | ⟨none_, rfl⟩
  · rw [releasePin_tally point s run pending later]
    obtain ⟨account, link, switches⟩ := performTally_charges point
      { s with account := { s.account with pinned := false, pendingTally := none } }
    refine ⟨?_, ?_, ?_, ?_, fun failed => performTally_journal_failed _ _ failed, fun on _ i => ?_⟩
    · rw [account, takeCharged_account]
    · rw [link]
      exact takeCharged_notices _ { s with account := { s.account with pinned := false, pendingTally := none } }
        (by rw [run]; decide)
    · rw [link, takeCharged_replies]
    · rw [link, takeCharged_completed]
    · rw [switches]
      exact takeCharged_caps _ { s with account := { s.account with pinned := false, pendingTally := none } } on i
  · rw [releasePin_discards s (.inr none_)]
    exact ⟨rfl, by simp [chargeCauses], rfl, rfl, fun _ => rfl, fun _ caps => caps⟩

/-! ## Entries settled -/

theorem settleToken_notices (r : TokenResult) (x : List Byte) (s : State) (e : IntakeEntry) (rest : List IntakeEntry)
    (held : s.tokens.intake = e :: rest) (on : s.supply.power ≠ .off) :
    (settleToken r x s).link.notices = s.link.notices ||| if e.source = .relay then 0x0004#16 else 0 := by
  cases source : e.source with
  | keypad req =>
    rw [settleToken_ofKeypad r x s e rest req held source, answer, completeReply_notices, if_neg (by exact (nomatch ·))]
    exact BitVec.or_zero.symm
  | relay =>
    rw [settleToken_ofRelay r x s e rest held source, raise_notices _ _ (by exact on), if_pos rfl]
    rfl

theorem settleToken_lastRelay (r : TokenResult) (x : List Byte) (s : State) (e : IntakeEntry) (rest : List IntakeEntry)
    (held : s.tokens.intake = e :: rest) :
    (settleToken r x s).tokens.lastRelay =
      if e.source = .relay then some ⟨tokenKind e.token, tokenSerial e.token, r⟩ else s.tokens.lastRelay := by
  cases source : e.source with
  | keypad req =>
    rw [settleToken_ofKeypad r x s e rest req held source, answer, completeReply_tokens, if_neg (by exact (nomatch ·))]
  | relay =>
    rw [settleToken_ofRelay r x s e rest held source, raise_tokens, if_pos rfl]

theorem settleToken_tokens (r : TokenResult) (x : List Byte) (s : State) (e : IntakeEntry) (rest : List IntakeEntry)
    (held : s.tokens.intake = e :: rest) :
    (settleToken r x s).tokens = { s.tokens with
      intake := rest, service := .idle
      lastRelay := if e.source = .relay then some ⟨tokenKind e.token, tokenSerial e.token, r⟩ else s.tokens.lastRelay } := by
  rw [← settleToken_lastRelay r x s e rest held]
  exact congrArg State.tokens (settleToken_eq r x s e rest held)

theorem settleToken_relay_replies (r : TokenResult) (x : List Byte) (s : State) (e : IntakeEntry) (rest : List IntakeEntry)
    (held : s.tokens.intake = e :: rest) (source : e.source = .relay) :
    (settleToken r x s).link.replies = s.link.replies := by
  rw [settleToken_ofRelay r x s e rest held source, raise_replies]

theorem settleToken_replied (r : TokenResult) (x : List Byte) (s : State) (e : IntakeEntry) (rest : List IntakeEntry)
    (held : s.tokens.intake = e :: rest) (awake : s.supply.power.awake = true) (req : Request)
    (source : e.source = .keypad req) (wanted : req.id ∉ s.link.cancelled) :
    Replied ⟨req.id, req.tag, req.kind, tokenReply r (tokenKind e.token) (tokenSerial e.token) x, false⟩
      (settleToken r x s).link := by
  rw [settleToken_ofKeypad r x s e rest req held source]
  exact replied_answer _ _ _ awake wanted

/-! ## The journal fails (R140 to R142) -/

/-- The part as its journal becomes FAILED, before the submitters are told. -/
def failedJournal (s : State) : State :=
  { s with journal := { s.journal with failed := true, queue := [], op := .none, flushWait := false } }

theorem journalFail_eq (s : State) : journalFail s =
    offIf (decide ((endWork (raise .journalFailed (s.journal.queue.foldl tellDropped (failedJournal s)))).supply.power
      = .holdover)) (endWork (raise .journalFailed (s.journal.queue.foldl tellDropped (failedJournal s)))) := rfl

/-- After holdover has begun a dropped entry's submitter leaves the clock domain and the journal alone (R62, R125). -/
theorem tellDropped_holdover (s : State) (q : Queued) (holdover : s.supply.power = .holdover) :
    (tellDropped s q).supply.power = .holdover ∧ (tellDropped s q).domain = s.domain
      ∧ (tellDropped s q).journal = s.journal := by
  cases q with
  | token entry =>
    have released := releasePin_discards (settleToken .notDurable [] s) (.inl (by
      rw [settleToken_supply, holdover]
      decide))
    refine ⟨?_, ?_, ?_⟩
    · rw [tellDropped, dropToken, released, settleToken_supply, holdover]
    · rw [tellDropped, dropToken, released, settleToken_domain]
    · rw [tellDropped, dropToken, released, settleToken_journal]
  | tally restart =>
    unfold tellDropped
    dsimp only
    split
    · split
      · exact ⟨holdover, rfl, rfl⟩
      · rw [answerResult, answer, completeReply_supply, completeReply_domain, completeReply_journal]
        exact ⟨holdover, rfl, rfl⟩
    · exact ⟨holdover, rfl, rfl⟩
  | suspend => exact ⟨holdover, rfl, rfl⟩

theorem foldl_tellDropped_holdover (queue : List Queued) (s : State) (holdover : s.supply.power = .holdover) :
    (queue.foldl tellDropped s).supply.power = .holdover ∧ (queue.foldl tellDropped s).domain = s.domain
      ∧ (queue.foldl tellDropped s).journal = s.journal := by
  induction queue generalizing s with
  | nil => exact ⟨holdover, rfl, rfl⟩
  | cons q rest ih =>
    obtain ⟨power, domain, journal⟩ := tellDropped_holdover s q holdover
    obtain ⟨power', domain', journal'⟩ := ih (tellDropped s q) power
    exact ⟨power', domain'.trans domain, journal'.trans journal⟩

theorem endWork_ordinary (s : State) (work : s.journal.work = .ordinary) : endWork s = s := by
  rw [endWork, work]

/-- Replay has reported its completion with what it found. -/
def replayReported (found : Found) (s : State) : State :=
  { s with
    journal := { s.journal with work := .ordinary }
    supply := { s.supply with replay := .done (some found) } }

theorem endWork_replay (s : State) (found : Found) (work : s.journal.work = .replay found) :
    endWork s = replayReported found s := by
  rw [endWork, work]
  rfl

theorem journalFail_holdover (s : State) (holdover : s.supply.power = .holdover) (work : s.journal.work = .ordinary) :
    ∃ t, journalFail s = coreOff t ∧ t.domain = s.domain := by
  obtain ⟨power, domain, journal⟩ := foldl_tellDropped_holdover s.journal.queue (failedJournal s) holdover
  have ends := endWork_ordinary (raise .journalFailed (s.journal.queue.foldl tellDropped (failedJournal s)))
    (by rw [raise_journal, journal]; exact work)
  refine ⟨raise .journalFailed (s.journal.queue.foldl tellDropped (failedJournal s)), ?_, ?_⟩
  · rw [journalFail_eq, ends, raise_supply, power]
    rfl
  · rw [raise_domain, domain]
    rfl

/-- A failure of ordinary work in RUN: each submitter is told and JOURNAL_FAILED raised (R142). -/
theorem journalFail_run (s t : State) (told : s.journal.queue.foldl tellDropped (failedJournal s) = t)
    (run : t.supply.power = .run) (work : t.journal.work = .ordinary) : journalFail s = raise .journalFailed t := by
  rw [journalFail_eq, told, endWork_ordinary _ (by rw [raise_journal]; exact work), raise_supply, run]
  rfl

/-- A failure in a replay's move-on, where no entry is queued (R146). -/
theorem journalFail_starting (s : State) (found : Found) (queue : s.journal.queue = []) (starting : s.supply.power = .starting)
    (work : s.journal.work = .replay found) :
    journalFail s = raise .journalFailed (replayReported found (failedJournal s)) := by
  have awake : (failedJournal s).supply.power.awake = true := congrArg Power.awake starting
  have ends : endWork (raise .journalFailed (failedJournal s)) =
      raise .journalFailed (replayReported found (failedJournal s)) := by
    rw [endWork_replay _ found (by rw [raise_journal]; exact work), raise_awake _ (failedJournal s) awake,
      raise_awake _ (replayReported found (failedJournal s)) awake]
    rfl
  rw [journalFail_eq, queue, List.foldl_nil, ends, raise_supply,
    show (replayReported found (failedJournal s)).supply.power = _ from starting]
  rfl

/-! ## Failed operations -/

theorem moveOn_fails (sector : Nat) (s : State) (few : goodSectors s.journal.bad < 2) : moveOn sector s = journalFail s :=
  if_pos few

theorem moveOn_erases (sector : Nat) (s : State) (enough : 2 ≤ goodSectors s.journal.bad) :
    moveOn sector s = { s with journal := { s.journal with op := .erase (nextGood s.journal.bad sector) } } :=
  if_neg (Nat.not_lt.2 enough)

theorem writeEnd_failed (s : State) (e : Entry)
    (op : s.journal.op = .write e ∨ s.journal.op = .head e ∧ s.supply.givenUp = false) (noneHeld : s.journal.held = []) :
    writeEnd false s = moveOn s.journal.sector
      (operationEnded (flashWrite s.flash s.journal.slot .damaged) (addBad s.journal.bad s.journal.sector) s) := by
  have quiet : serveHeldHistory (writeFailed s) = writeFailed s := serveHeldHistory_quiet (writeFailed s) (.inr noneHeld)
  unfold writeEnd
  rcases op with op | ⟨op, given⟩
  · rw [op]
    dsimp only
    rw [if_neg (by decide), quiet]
    rfl
  · rw [op]
    dsimp only
    rw [if_neg (by decide), if_neg (by rw [given]; decide), quiet]
    rfl

theorem eraseEnd_failed (sector : Nat) (left : List SlotLeft) (s : State) (op : s.journal.op = .erase sector)
    (noneHeld : s.journal.held = []) (given : s.supply.givenUp = false)
    (ends : s.journal.work ≠ .ringErase ∨ goodSectors (addBad s.journal.bad sector) < 2) :
    eraseEnd false left s = moveOn sector
      (operationEnded (flashEraseFailed s.flash sector left) (addBad s.journal.bad sector) s) := by
  have quiet := serveHeldHistory_quiet (operationEnded (flashEraseFailed s.flash sector left)
    (addBad s.journal.bad sector) s) (.inr noneHeld)
  have notRing : ¬(2 ≤ goodSectors (addBad s.journal.bad sector) ∧ s.journal.work = .ringErase) := fun ⟨enough, ring⟩ =>
    ends.elim (· ring) (Nat.not_lt.2 enough)
  rw [eraseEnd, op]
  dsimp only
  rw [if_neg (by decide), eraseFailed]
  dsimp only
  rw [show serveHeldHistory { s with
    flash := flashEraseFailed s.flash sector left
    journal := { s.journal with bad := addBad s.journal.bad sector, op := .none } } = _ from quiet]
  exact (if_neg (Bool.eq_false_iff.1 given)).trans (if_neg notRing)

theorem exec_writeEnd (verify : Bool) (s t : State) (ends : writeEnd verify s = t) :
    exec (.journalWriteEnd verify) s = .next (finish .tokenFirst t) := ends ▸ rfl

theorem exec_eraseEnd (verify : Bool) (left : List SlotLeft) (s t : State) (ends : eraseEnd verify left s = t) :
    exec (.sectorEraseEnd verify left) s = .next (finish .tokenFirst t) := ends ▸ rfl

/-- The failure of a slot write or an erase that leaves fewer than two good sectors (R140 to R142). -/
theorem exec_fails (c : Instr) (bad : BitVec 8) (s : State) (noneHeld : s.journal.held = [])
    (given : s.supply.givenUp = false)
    (isFailure : (∃ sector left, c = .sectorEraseEnd false left ∧ s.journal.op = .erase sector
        ∧ bad = addBad s.journal.bad sector)
      ∨ ∃ e, c = .journalWriteEnd false ∧ (s.journal.op = .write e ∨ s.journal.op = .head e)
        ∧ bad = addBad s.journal.bad s.journal.sector)
    (few : goodSectors bad < 2) :
    ∃ flash, exec c s = .next (finish .tokenFirst (journalFail (operationEnded flash bad s))) := by
  rcases isFailure with ⟨sector, left, rfl, op, rfl⟩ | ⟨e, rfl, op, rfl⟩
  · refine ⟨flashEraseFailed s.flash sector left, exec_eraseEnd false left s _ ?_⟩
    exact (eraseEnd_failed sector left s op noneHeld given (.inr few)).trans (moveOn_fails sector _ few)
  · refine ⟨flashWrite s.flash s.journal.slot .damaged, exec_writeEnd false s _ ?_⟩
    exact (writeEnd_failed s e (op.imp_right (⟨·, given⟩)) noneHeld).trans (moveOn_fails _ _ few)

/-- An event that ends with JOURNAL_FAILED raised, the units settled. -/
theorem exec_journalFailed (c : Instr) (s x : State)
    (run : exec c s = .next (finish .tokenFirst (raise .journalFailed x))) (units : UnitsSettled x)
    (on : x.supply.power ≠ .off) :
    ∃ link : Link, exec c s = .next { x with link := link } ∧ link.notices = x.link.notices ||| 0x0400#16
      ∧ link.replies = x.link.replies ∧ link.completed = x.link.completed := by
  have raised : UnitsSettled (raise .journalFailed x) := by
    simpa only [UnitsSettled, raise_supply, raise_tokens, raise_relay, raise_domain, raise_journal] using units
  refine ⟨(raise .journalFailed x).link.pump, ?_, ?_, ?_, ?_⟩
  · rw [run, finish_unitsSettled _ _ raised]
    exact congrArg (fun t : State => Host.Outcome.next { t with link := (raise .journalFailed x).link.pump })
      (raise_eq .journalFailed x)
  · rw [pump_notices, raise_notices _ _ on]
    rfl
  · rw [pump_replies, raise_replies]
  · rw [pump_completed, raise_completed]

/-- A dropped TOKEN: its entry is settled NOT_DURABLE, the pin released and a pending tally performed (R62). -/
theorem dropToken_eq (s : State) (i : IntakeEntry) (last : Charged) (held : s.tokens.intake = [i])
    (run : s.supply.power = .run) (failed : s.journal.failed = true) (tally : PinTally last s) :
    PinReleased last (settleToken .notDurable [] s) (dropToken s)
      ∧ dropToken s = { s with
        account := { s.account with acct := last.acct, pinned := false, pendingTally := none }
        tokens := { s.tokens with
          intake := [], service := .idle
          lastRelay := if i.source = .relay then some ⟨tokenKind i.token, tokenSerial i.token, .notDurable⟩
            else s.tokens.lastRelay }
        switches := (dropToken s).switches
        link := (dropToken s).link } := by
  have released : PinReleased last (settleToken .notDurable [] s) (dropToken s) := by
    refine releasePin_released last _ (by rw [settleToken_supply, run]) ?_
    rw [PinTally, settleToken_account, settleToken_provisioning, settleToken_meter]
    exact tally
  refine ⟨released, ?_⟩
  have account := released.account
  have journal := released.journal (by rw [settleToken_journal]; exact failed)
  rw [settleToken_account] at account
  rw [settleToken_journal] at journal
  refine state_ext ?_ ?_ ?_ ?_ account ?_ ?_ ?_ rfl ?_ journal ?_ rfl ?_ <;> simp only [dropToken, releasePin_pending,
    releasePin_provisioning, releasePin_flash, releasePin_domain, releasePin_tokens, releasePin_digests, releasePin_meter,
    releasePin_supply, releasePin_relay, releasePin_idleMilliseconds, settleToken_pending, settleToken_provisioning,
    settleToken_flash, settleToken_domain, settleToken_digests, settleToken_meter, settleToken_supply, settleToken_relay,
    settleToken_idleMilliseconds, settleToken_tokens _ _ s i [] held]

/-- The next good sector's erase begins (R140, R141). -/
theorem exec_movesOn (c : Instr) (flash : Flash) (bad : BitVec 8) (sector : Nat) (s : State) (settled : Settled s)
    (run : exec c s = .next (finish .tokenFirst (moveOn sector (operationEnded flash bad s))))
    (enough : 2 ≤ goodSectors bad) :
    exec c s = .next { s with
      flash := flash, journal := { s.journal with bad := bad, op := .erase (nextGood bad sector) } } :=
  exec_settled c s _ _ run (moveOn_erases sector (operationEnded flash bad s) enough)
    ⟨settled.1.withJournal flash _ s.link fun free => (nomatch free.2.2), settled.2⟩

/-- The part with its journal FAILED after an operation. -/
def failedAfter (flash : Flash) (bad : BitVec 8) (s : State) : State := failedJournal (operationEnded flash bad s)

/-- The part with its pending RESTART given up. -/
def restartCancelled (s : State) : State :=
  { s with supply := { s.supply with restartPending := false, restartRequest := none } }

/-- A dropped TALLY that carries a RESTART answers it NOT_DURABLE (R131). -/
theorem tellDropped_restart (s : State) (req : Request) (pending : s.supply.restartPending = true)
    (request : s.supply.restartRequest = some req) :
    [Queued.tally true].foldl tellDropped s = answerResult req .notDurable (restartCancelled s) := by
  simp only [List.foldl_cons, List.foldl_nil, tellDropped, pending, request, Bool.and_self, if_true]
  rfl

/-- Settles O54: the operation's end, then the next erase or the failure of the journal. -/
theorem flashFailures : Obligations.FlashFailures := by
  refine ⟨fun e s settled wf op noneHeld enough => ?_, fun sector left s settled op noneHeld notRing given enough => ?_,
    fun c bad failed s settled noneHeld given isFailure few isFailed => ?_⟩
  · have moves := exec_movesOn (.journalWriteEnd false) _ _ _ s settled
      (exec_writeEnd false s _ (writeEnd_failed s e (.inl op) noneHeld)) enough
    exact ⟨_, moves, fun k => flashRead_flashWrite _ wf _ _ _, rfl⟩
  · have moves := exec_movesOn (.sectorEraseEnd false left) _ _ _ s settled
      (exec_eraseEnd false left s _ (eraseEnd_failed sector left s op noneHeld given (.inl notRing))) enough
    exact ⟨_, moves, fun wf k => flashRead_flashEraseFailed _ wf _ _ _, rfl⟩
  obtain ⟨flash, run⟩ := exec_fails c bad s noneHeld given isFailure few
  subst isFailed
  refine ⟨fun work power => ⟨fun queue => ?_, fun entry i last queue service intake tally => ?_,
    fun req queue pending request => ?_⟩, fun work power => ?_, fun found work power queue => ?_⟩
  · have fails := journalFail_run (operationEnded flash bad s) (failedAfter flash bad s)
      (by rw [show (operationEnded flash bad s).journal.queue = _ from queue]; rfl) power work
    rw [fails] at run
    obtain ⟨link, comes, notices, replies, -⟩ := exec_journalFailed c s (failedAfter flash bad s) run
      (settled.1.withJournal _ _ _ fun free => (nomatch free.1))
      (fun off => (nomatch power.symm.trans off))
    exact ⟨_, comes, notices, replies, rfl⟩
  · have isFailed' : (failedAfter flash bad s).journal.failed = true := rfl
    obtain ⟨released, dropped⟩ := dropToken_eq (failedAfter flash bad s) i last intake power isFailed' tally
    have fails := journalFail_run (operationEnded flash bad s) (dropToken (failedAfter flash bad s))
      (by rw [show (operationEnded flash bad s).journal.queue = _ from queue]; rfl) (by rw [dropped]; exact power)
      (by rw [dropped]; exact work)
    rw [fails] at run
    obtain ⟨link, comes, notices, replies, completed⟩ := exec_journalFailed c s (dropToken (failedAfter flash bad s)) run
      (by rw [dropped]; exact ⟨fun _ => rfl, settled.1.2.1, fun free => (nomatch free.1)⟩)
      (by rw [dropped]; exact fun off => (nomatch power.symm.trans off))
    refine ⟨_, comes, fun req source wanted => ?_, fun source => ?_, ?_, ?_⟩
    · have replied := settleToken_replied .notDurable [] (failedAfter flash bad s) i [] intake
        (by rw [show (failedAfter flash bad s).supply.power = _ from power]; rfl) req source wanted
      rw [tokenReply, List.append_nil, Replied, ← released.replies, ← released.completed, ← replies, ← completed] at replied
      exact replied
    · exact replies.trans (released.replies.trans (settleToken_relay_replies _ _ _ i [] intake source))
    · show link.notices = _
      rw [notices, released.notices, settleToken_notices _ _ (failedAfter flash bad s) i [] intake (fun off => (nomatch
        power.symm.trans off)),
        settleToken_account, chargeCauses]
      show (s.link.notices ||| _ ||| _) ||| _ = _
      ac_rfl
    · rw [dropped]
      rfl
  · have awake : (failedAfter flash bad s).supply.power.awake = true := congrArg Power.awake power
    have fails := journalFail_run (operationEnded flash bad s) _
      ((congrArg (List.foldl tellDropped (failedAfter flash bad s)) queue).trans
        (tellDropped_restart (failedAfter flash bad s) req pending request))
      (by rw [answerResult_supply]; exact power) (by rw [answerResult_journal]; exact work)
    rw [fails] at run
    obtain ⟨link, comes, notices, replies, completed⟩ := exec_journalFailed c s _ run
      (by
        simp only [UnitsSettled, answerResult_supply, answerResult_tokens, answerResult_relay, answerResult_domain,
          answerResult_journal]
        exact ⟨settled.1.1, settled.1.2.1, fun free => (nomatch free.1)⟩)
      (by rw [answerResult_supply]; exact awake_on awake)
    refine ⟨_, comes, ?_, fun wanted => ?_, ?_⟩
    · refine notices.trans ?_
      rw [answerResult, answer, completeReply_notices]
      rfl
    · have replied := replied_answer req [ReplyResult.notDurable.code] (restartCancelled (failedAfter flash bad s)) awake wanted
      rw [Replied] at replied ⊢
      exact replied.imp (replies ▸ ·) (completed ▸ ·)
    · rw [answerResult, answer, completeReply_eq]
      rfl
  · obtain ⟨t, fails, domain⟩ := journalFail_holdover (operationEnded flash bad s) power work
    rw [fails, finish_settled _ _ (coreOff_settled t)] at run
    exact ⟨_, run, rfl, rfl, rfl, rfl, rfl, domain⟩
  · have fails := journalFail_starting (operationEnded flash bad s) found queue power work
    rw [fails] at run
    obtain ⟨link, comes, notices, replies, -⟩ := exec_journalFailed c s (replayReported found (failedAfter flash bad s)) run
      ⟨settled.1.1, settled.1.2.1, fun free => (nomatch free.1)⟩ (fun off => (nomatch power.symm.trans off))
    exact ⟨_, comes, notices, replies, rfl⟩

end Sys2Proof.Machine
end

section
/-! The bytes of an entry (O51). -/

namespace Sys2Proof.Machine

/-- The bytes of an entry up to its snapshot, its snapshot's, its kind body's and its check's (R182). -/
theorem entryBytes_parts (e : Entry) : entryBytes e =
    natBytes 4 e.sequence ++ ([e.kind.code] ++ (timeBytes e.time ++ (accountBytes e.snapshot
      ++ (e.kind.bytes ++ natBytes 4 e.check.toNat)))) := by
  simp [entryBytes, entryFields]

/-- The fields of a snapshot, the bytes that follow it left open. -/
theorem snapshot_fields (a : Account) (rest : List Byte) (b : List Byte) (is : b = accountBytes a ++ rest) :
    fieldAt b 0 1 = a.state.code.toNat ∧ fieldAt b 1 4 = a.balance % 2 ^ 32
      ∧ fieldAt b 5 2 = a.debt % 2 ^ 16 ∧ fieldAt b 7 2 = a.graceBudget % 2 ^ 16
      ∧ fieldAt b 9 1 = a.graceArmed.toNat ∧ fieldAt b 10 1 = a.rs % 2 ^ 8
      ∧ fieldAt b 11 4 = a.re % 2 ^ 32 ∧ fieldAt b 15 4 = a.allowance % 2 ^ 32
      ∧ fieldAt b 19 1 = a.activeTariff % 2 ^ 8 ∧ fieldAt b 20 1 = a.stagedTariff.getD 0 % 2 ^ 8
      ∧ fieldAt b 21 6 = a.ct % 2 ^ 48 ∧ fieldAt b 27 6 = a.ht % 2 ^ 48
      ∧ fieldAt b 33 6 = a.ft % 2 ^ 48 ∧ fieldAt b 39 6 = a.vt % 2 ^ 48
      ∧ (∀ i : Fin 4, fieldAt b (45 + 4 * i.val) 4 = a.marks.get i % 2 ^ 32)
      ∧ fieldAt b 61 2 = a.lastTally.day % 2 ^ 16 ∧ fieldAt b 63 2 = a.lastTally.minute % 2 ^ 16 := by
  subst is
  simp [accountBytes, PerPort.bytes, PerPort.get, Fin.forall_fin_succ, timeBytes, fieldAt_skip, fieldAt_cons_skip, fieldAt_head,
    fieldAt_natBytes_append, boolByte_toNat]

/-- A bit of a window's 32-bit number is a mark at its distance below the highest serial (R182). -/
theorem testBit_marksBits (w : Window) (below : ∀ m ∈ w.marks, m < w.high) (k : Nat) (first : 1 ≤ k) :
    (marksBits w).testBit (k - 1) = true ↔ ∃ m ∈ w.marks, m + k = w.high := by
  have gathers (marks : List Nat) (acc : Nat) :
      (marks.foldl (fun acc m => acc ||| (1 <<< (w.high - m - 1))) acc).testBit (k - 1) = true ↔
        acc.testBit (k - 1) = true ∨ ∃ m ∈ marks, w.high - m - 1 = k - 1 := by
    induction marks generalizing acc with
    | nil => simp
    | cons m rest ih =>
      rw [List.foldl_cons, ih, Nat.testBit_or, Bool.or_eq_true, Nat.one_shiftLeft, Nat.testBit_two_pow, decide_eq_true_iff,
        or_assoc]
      simp
  rw [marksBits, gathers, Nat.zero_testBit]
  constructor
  · rintro (no | ⟨m, marked, at_⟩)
    · cases no
    · exact ⟨m, marked, by have := below m marked; omega⟩
  · rintro ⟨m, marked, at_⟩
    exact .inr ⟨m, marked, by omega⟩

/-- The fields of a kind body (R182), the bytes that follow it left open. -/
theorem checkpoint_fields (w : Window) (bad : BitVec 8) (rest b : List Byte)
    (is : b = (EntryKind.checkpoint w bad).bytes ++ rest) :
    fieldAt b 0 2 = w.high % 2 ^ 16
      ∧ ((∀ m ∈ w.marks, m < w.high) → ∀ k, 1 ≤ k → k ≤ 32 →
          ((fieldAt b 2 4).testBit (k - 1) = true ↔ ∃ m ∈ w.marks, m + k = w.high))
      ∧ fieldAt b 6 1 = bad.toNat ∧ fieldAt b 7 8 = 0 := by
  subst is
  have marks : fieldAt ((EntryKind.checkpoint w bad).bytes ++ rest) 2 4 = marksBits w % 2 ^ 32 := by
    simp [EntryKind.bytes, fieldAt_skip, fieldAt_natBytes_append]
  refine ⟨?_, fun below k first last => ?_, ?_, ?_⟩
  · simp [EntryKind.bytes, fieldAt_natBytes_append]
  · rw [marks, Nat.testBit_mod_two_pow, decide_eq_true (by omega), Bool.true_and]
    exact testBit_marksBits w below k first
  · simp [EntryKind.bytes, fieldAt_skip, fieldAt_natBytes_append]
    exact bad.isLt
  · simp [EntryKind.bytes, fieldAt_skip, fieldAt_natBytes_append]

theorem token_fields (t : TokenBody) (rest b : List Byte) (is : b = (EntryKind.token t).bytes ++ rest) :
    fieldAt b 0 1 = t.kind % 2 ^ 8 ∧ fieldAt b 1 2 = t.serial % 2 ^ 16
      ∧ fieldAt b 3 2 = t.value % 2 ^ 16 ∧ fieldAt b 5 2 = t.issueDay % 2 ^ 16
      ∧ (t.outcome = .none → fieldAt b 7 1 = 0 ∧ fieldAt b 8 7 = 0)
      ∧ (t.outcome = .confirm → fieldAt b 7 1 = 1 ∧ fieldAt b 8 7 = 0)
      ∧ (∀ target n crossing, t.outcome = .move target n crossing →
          fieldAt b 7 1 = 2 ∧ fieldAt b 8 2 = target.day % 2 ^ 16 ∧ fieldAt b 10 2 = target.minute % 2 ^ 16
          ∧ fieldAt b 12 2 = n % 2 ^ 16 ∧ fieldAt b 14 1 = crossing.toNat)
      ∧ (∀ target, t.outcome = .hold target →
          fieldAt b 7 1 = 3 ∧ fieldAt b 8 2 = target.day % 2 ^ 16 ∧ fieldAt b 10 2 = target.minute % 2 ^ 16
          ∧ fieldAt b 12 3 = 0) := by
  subst is
  refine ⟨?_, ?_, ?_, ?_, fun outcome => ?_, fun outcome => ?_, fun target n crossing outcome => ?_,
    fun target outcome => ?_⟩
  · simp [EntryKind.bytes, fieldAt_natBytes_append]
  · simp [EntryKind.bytes, fieldAt_skip, fieldAt_natBytes_append]
  · simp [EntryKind.bytes, fieldAt_skip, fieldAt_natBytes_append]
  · simp [EntryKind.bytes, fieldAt_skip, fieldAt_natBytes_append]
  all_goals
    simp [EntryKind.bytes, outcome, AnchorOutcome.code, AnchorOutcome.bytes, timeBytes, fieldAt_skip, fieldAt_cons_skip,
      fieldAt_head, fieldAt_natBytes_append, boolByte_toNat]

/-- The bytes of a sealed entry (Table 12-10). -/
theorem sealedEntry_fields (sequence : Nat) (kind : EntryKind) (time : ClockTime) (snapshot : Account) (e : Entry)
    (b : List Byte) (sealed : e = sealEntry sequence kind time snapshot) (is : b = entryBytes e) :
    fieldAt b 0 4 = sequence % 2 ^ 32 ∧ fieldAt b 4 1 = kind.code.toNat ∧ fieldAt b 5 2 = time.day % 2 ^ 16
      ∧ fieldAt b 7 2 = time.minute % 2 ^ 16
      ∧ (∀ o n, 9 ≤ o → fieldAt b o n = fieldAt (accountBytes snapshot ++ (kind.bytes ++ natBytes 4 e.check.toNat)) (o - 9) n)
      ∧ (∀ o n, 74 ≤ o → fieldAt b o n = fieldAt (kind.bytes ++ natBytes 4 e.check.toNat) (o - 74) n)
      ∧ fieldAt b 89 4 = (crc32 (b.take 89)).toNat := by
  have isCheck : e.check = crc32 (entryFields sequence kind time snapshot) := by simp only [sealed, sealEntry]
  obtain rfl : e.sequence = sequence := congrArg Entry.sequence sealed
  obtain rfl : e.kind = kind := congrArg Entry.kind sealed
  obtain rfl : e.time = time := congrArg Entry.time sealed
  obtain rfl : e.snapshot = snapshot := congrArg Entry.snapshot sealed
  have checked : b.take 89 = entryFields e.sequence e.kind e.time e.snapshot := by
    rw [is, entryBytes, List.take_left' (entryFields_length _ _ _ _)]
  rw [checked, ← isCheck]
  rw [entryBytes_parts] at is
  subst is
  refine ⟨?_, ?_, ?_, ?_, fun o n far => ?_, fun o n far => ?_, ?_⟩
  · simp [fieldAt_natBytes_append]
  · simp [fieldAt_skip, fieldAt_head]
  · simp [timeBytes, fieldAt_skip, fieldAt_cons_skip, fieldAt_natBytes_append]
  · simp [timeBytes, fieldAt_skip, fieldAt_cons_skip, fieldAt_natBytes_append]
  · rw [fieldAt_skip _ _ _ _ (by simp; omega), fieldAt_skip _ _ _ _ (by simp; omega), fieldAt_skip _ _ _ _ (by simp; omega)]
    simp only [natBytes_length, List.length_singleton, timeBytes_length, Nat.sub_sub]
  · rw [fieldAt_skip _ _ _ _ (by simp; omega), fieldAt_skip _ _ _ _ (by simp; omega), fieldAt_skip _ _ _ _ (by simp; omega),
      fieldAt_skip _ _ _ _ (by simp; omega)]
    simp only [natBytes_length, List.length_singleton, timeBytes_length, accountBytes_length, Nat.sub_sub]
  · simp [fieldAt_skip, fieldAt_cons_skip, fieldAt_natBytes]
    exact e.check.isLt

end Sys2Proof.Machine
end

section
/-! Writes that end with their verify passed (O51). -/

namespace Sys2Proof.Machine

/-! ## The order of the replies (R148, R169) -/

@[simp] theorem queueReply_cancelled (r : Reply) (l : Link) : (l.queueReply r).cancelled = l.cancelled := by
  unfold Link.queueReply
  split <;> rfl

/-- Requests answered from the flash have their replies queued in the order they came, after what was queued. -/
theorem foldl_answerHistory_inOrder (held : List Request) (s : State) (awake : s.supply.power.awake = true)
    (wanted : ∀ r ∈ held, r.id ∉ s.link.cancelled) (room : s.link.completed = [] ∨ 4 ≤ s.link.replyCount) :
    (held.foldl answerHistory s).link.replies ++ (held.foldl answerHistory s).link.completed =
      s.link.replies ++ s.link.completed ++ held.map (fun r =>
        ⟨r.id, r.tag, r.kind, historyBody s.flash (fieldAt r.body 0 4), false⟩) := by
  induction held generalizing s with
  | nil => rw [List.map_nil, List.append_nil]; rfl
  | cons req rest ih =>
    have answered : (answerHistory s req).link = Link.queueReply
        { s.link with handed := s.link.handed.filter (fun i => i ≠ req.id) }
        ⟨req.id, req.tag, req.kind, historyBody s.flash (fieldAt req.body 0 4), false⟩ :=
      congrArg State.link (completeReply_awake _ s awake (wanted req List.mem_cons_self))
    have flash : (answerHistory s req).flash = s.flash := completeReply_flash _ _
    have cancelled : (answerHistory s req).link.cancelled = s.link.cancelled := by
      rw [answered, queueReply_cancelled]
    have queued : (answerHistory s req).link.replies ++ (answerHistory s req).link.completed =
        s.link.replies ++ s.link.completed ++ [⟨req.id, req.tag, req.kind, historyBody s.flash (fieldAt req.body 0 4), false⟩]
        ∧ ((answerHistory s req).link.completed = [] ∨ 4 ≤ (answerHistory s req).link.replyCount) := by
      rw [replyCount_eq, answered]
      by_cases few : s.link.replyCount < 4
      · obtain ⟨replies, completed, -⟩ := queueReply_room
          ⟨req.id, req.tag, req.kind, historyBody s.flash (fieldAt req.body 0 4), false⟩
          { s.link with handed := s.link.handed.filter (fun i => i ≠ req.id) } few
        have noneWaits : s.link.completed = [] := room.resolve_right (Nat.not_le.2 few)
        rw [replies, completed]
        refine ⟨?_, .inl noneWaits⟩
        show (s.link.replies ++ _) ++ s.link.completed = _
        rw [noneWaits, List.append_nil, List.append_nil]
      · obtain ⟨replies, completed, -⟩ := queueReply_full
          ⟨req.id, req.tag, req.kind, historyBody s.flash (fieldAt req.body 0 4), false⟩
          { s.link with handed := s.link.handed.filter (fun i => i ≠ req.id) } (Nat.not_lt.1 few)
        rw [replies, completed]
        refine ⟨?_, .inr ?_⟩
        · show s.link.replies ++ (s.link.completed ++ _) = _
          rw [List.append_assoc]
        · exact (replyCount_eq s.link) ▸ Nat.not_lt.1 few
    obtain ⟨order, room⟩ := queued
    rw [List.foldl_cons, ih (answerHistory s req) (by rw [answerHistory, answer, completeReply_supply]; exact awake)
      (fun r later => by rw [cancelled]; exact wanted r (List.mem_cons_of_mem _ later)) room, order, flash, List.map_cons,
      List.append_assoc, List.singleton_append]

/-! ## Completed writes (R138, R139) -/

/-- The part with an entry in its slot and the oldest gone from the queue, before its submitter is told. -/
def entryLeft (e : Entry) (rest : List Queued) (s : State) : State :=
  { writePassed e s with journal := { (writePassed e s).journal with queue := rest } }

theorem writePassed_slots (e : Entry) (s : State) (wf : FlashWf s.flash) (k : Nat) :
    flashRead (writePassed e s).flash k =
      if k = s.journal.sector * 60 + s.journal.nextSlot then .entry e ((entryBytes e).map some ++ [none, none, none])
      else flashRead s.flash k := flashRead_flashWrite _ wf _ _ _

theorem writeEnd_passed (e : Entry) (q : Queued) (rest : List Queued) (s : State) (op : s.journal.op = .write e)
    (queue : s.journal.queue = q :: rest) :
    writeEnd true s = serveHeldHistory (tellComplete q (entryLeft e rest s)) := by
  have oldest : completeOldest (writePassed e s) = tellComplete q (entryLeft e rest s) := by
    rw [completeOldest, show (writePassed e s).journal.queue = _ from queue]
    rfl
  rw [writeEnd, op]
  dsimp only
  rw [if_pos rfl, oldest]

theorem writeEnd_head (e : Entry) (s : State) (op : s.journal.op = .head e) :
    writeEnd true s = if s.supply.givenUp = true then coreOff (writePassed e s)
      else serveHeldHistory (headComplete (writePassed e s)) := by
  rw [writeEnd, op]
  dsimp only
  rw [if_pos rfl]

theorem headComplete_ordinary (s : State) (work : s.journal.work = .ordinary) : headComplete s = s := by
  rw [headComplete, work]

theorem headComplete_replay (s : State) (found : Found) (work : s.journal.work = .replay found) :
    headComplete s = replayReported found s := by
  rw [headComplete, work]
  rfl

/-- A TALLY's write that passes, with nothing else queued. -/
theorem tallyWritten (e : Entry) (s : State) (settled : Settled s) (op : s.journal.op = .write e)
    (queue : s.journal.queue = [.tally false]) (noneHeld : s.journal.held = []) :
    exec (.journalWriteEnd true) s = .next (entryLeft e [] s) :=
  exec_settled _ s _ _ rfl
    ((writeEnd_passed e _ [] s op queue).trans (serveHeldHistory_quiet (entryLeft e [] s) (.inr noneHeld)))
    ⟨settled.1.withJournal _ _ s.link fun _ => rfl, settled.2⟩

/-- A sector-head checkpoint that completes in ordinary work, the oldest queued entry written next (R139, R135). -/
theorem headWritten (e : Entry) (s : State) (settled : Settled s) (op : s.journal.op = .head e)
    (noneHeld : s.journal.held = []) (given : s.supply.givenUp = false) (work : s.journal.work = .ordinary) :
    exec (.journalWriteEnd true) s = .next { writePassed e s with
      journal := { (writePassed e s).journal with op := (journalGoOn (writePassed e s)).journal.op } } := by
  have ends : writeEnd true s = writePassed e s := by
    rw [writeEnd_head e s op, if_neg (by rw [given]; decide), headComplete_ordinary (writePassed e s) work]
    exact serveHeldHistory_quiet (writePassed e s) (.inr noneHeld)
  have quiet : (writePassed e s).link.pump = s.link := pump_of_settled _ settled.2
  rw [exec_writeEnd true s _ ends, finish_goesOn _ (writePassed e s) settled.1.1 settled.1.2.1, quiet]
  rfl

theorem journalGoOn_empty (s : State) (queue : s.journal.queue = []) : journalGoOn s = s := by
  unfold journalGoOn
  split
  · rfl
  · rw [queue]

/-- After a sector head the oldest queued entry is written to slot 1 (R139). -/
theorem headWritten_next (e : Entry) (q : Queued) (rest : List Queued) (s : State) (works : s.journal.failed = false)
    (noFlush : s.journal.flushWait = false) (first : s.journal.nextSlot = 0) (queue : s.journal.queue = q :: rest) :
    (journalGoOn (writePassed e s)).journal.op = .write (queuedEntry (writePassed e s) q) := by
  rw [journalGoOn_begins (writePassed e s) q rest works noFlush rfl queue]
  exact if_neg (by rw [show (writePassed e s).journal.nextSlot = s.journal.nextSlot + 1 from rfl, first]; decide)

/-- The journal waits after a RESTART's flush (R135). -/
def flushWaiting (s : State) : State := { s with journal := { s.journal with flushWait := true } }

/-- A TALLY that carries a RESTART completes: its reply is queued and the journal waits (R131, R135). -/
theorem flushWritten (e : Entry) (req : Request) (rest : List Queued) (s : State) (settled : Settled s)
    (run : s.supply.power = .run) (op : s.journal.op = .write e) (queue : s.journal.queue = .tally true :: rest)
    (noneHeld : s.journal.held = []) (pending : s.supply.restartPending = true)
    (request : s.supply.restartRequest = some req) (wanted : req.id ∉ s.link.cancelled) :
    ∃ link : Link, exec (.journalWriteEnd true) s = .next { flushWaiting (entryLeft e rest s) with link := link }
      ∧ link.notices = s.link.notices ∧ Replied ⟨req.id, req.tag, req.kind, [0], true⟩ link := by
  have told : tellComplete (.tally true) (entryLeft e rest s) =
      completeReply ⟨req.id, req.tag, req.kind, [0], true⟩ (flushWaiting (entryLeft e rest s)) := by
    rw [tellComplete, show (entryLeft e rest s).supply.restartPending = _ from pending]
    refine (if_pos rfl).trans ?_
    rw [completeFlush, show (entryLeft e rest s).supply.restartRequest = _ from request]
    exact if_neg wanted
  have quiet := serveHeldHistory_quiet
    (completeReply ⟨req.id, req.tag, req.kind, [0], true⟩ (flushWaiting (entryLeft e rest s)))
    (.inr (by rw [completeReply_journal]; exact noneHeld))
  have ends := ((writeEnd_passed e _ rest s op queue).trans (congrArg serveHeldHistory told)).trans quiet
  rw [completeReply_eq] at ends
  refine ⟨(completeReply ⟨req.id, req.tag, req.kind, [0], true⟩ (flushWaiting (entryLeft e rest s))).link.pump, ?_, ?_, ?_⟩
  · exact exec_unitsSettled _ s _ _ rfl ends (settled.1.withJournal _ _ _ fun free => (nomatch free.2.1))
  · rw [pump_notices, completeReply_notices]
    rfl
  · exact Replied.pump (replied_completeReply _ _ _ (congrArg Power.awake run) (.inl ⟨rfl, wanted⟩))

/-- Where a break has cancelled the request the core is restarted, with no reply (R131). -/
theorem flushRestarts (e : Entry) (req : Request) (rest : List Queued) (s : State) (op : s.journal.op = .write e)
    (queue : s.journal.queue = .tally true :: rest) (pending : s.supply.restartPending = true)
    (request : s.supply.restartRequest = some req) (cancelled : req.id ∈ s.link.cancelled) :
    exec (.journalWriteEnd true) s = .next (coreRestart (entryLeft e rest s)) := by
  have told : tellComplete (.tally true) (entryLeft e rest s) = coreRestart (entryLeft e rest s) := by
    rw [tellComplete, show (entryLeft e rest s).supply.restartPending = _ from pending]
    refine (if_pos rfl).trans ?_
    rw [completeFlush, show (entryLeft e rest s).supply.restartRequest = _ from request]
    exact if_pos cancelled
  have ends := (writeEnd_passed e _ rest s op queue).trans (congrArg serveHeldHistory told)
  rw [serveHeldHistory_quiet _ (.inl (by exact (nomatch ·)))] at ends
  exact exec_settled _ s _ _ rfl ends (corePowerUp_settled _)

/-- The part after a TALLY's write in RUN, its held requests served, before the journal goes on (R148). -/
def tallyServed (e : Entry) (rest : List Queued) (s : State) : State := serveHeldHistory (entryLeft e rest s)

theorem tallyServed_eq (e : Entry) (rest : List Queued) (s : State) (run : s.supply.power = .run) :
    tallyServed e rest s = { entryLeft e rest s with
      journal := { (entryLeft e rest s).journal with held := [] }, link := (tallyServed e rest s).link } := by
  rw [tallyServed, serveHeldHistory_eq, if_pos (by exact run)]

theorem tallyWritten_run (e : Entry) (rest : List Queued) (s : State) (settled : Settled s) (run : s.supply.power = .run)
    (op : s.journal.op = .write e) (queue : s.journal.queue = .tally false :: rest) :
    exec (.journalWriteEnd true) s = .next { tallyServed e rest s with
      journal := { (tallyServed e rest s).journal with op := (journalGoOn (tallyServed e rest s)).journal.op }
      link := (tallyServed e rest s).link.pump } := by
  have served := tallyServed_eq e rest s run
  rw [exec_writeEnd true s _ (writeEnd_passed e _ rest s op queue)]
  show Host.Outcome.next (finish .tokenFirst (tallyServed e rest s)) = _
  rw [finish_goesOn]
  · rw [served]
    exact settled.1.1
  · rw [served]
    exact settled.1.2.1

/-- Settles O51: the entry in its slot, its submitter told, the held requests served, and the entry's bytes. -/
theorem writesComplete : Obligations.WritesComplete := by
  refine ⟨fun e s settled wf op queue noneHeld => ?_,
    fun e s settled wf op first noneHeld works noFlush => ⟨fun work given => ?_,
      fun found work queue => ⟨fun given => ?_, fun given => ?_⟩, fun given enough => ?_⟩,
    fun e rest s settled wf power op queue => ?_, fun e req rest s settled wf run op queue noneHeld pending request => ?_,
    fun e rest s settled wf run op queue works noFlush => ?_,
    fun sequence kind time snapshot e b sealed is => ?_⟩
  · exact ⟨_, tallyWritten e s settled op queue noneHeld, writePassed_slots e s wf, rfl⟩
  · have slots := writePassed_slots e s wf
    rw [first] at slots
    have next := headWritten_next e
    refine ⟨_, headWritten e s settled op noneHeld given work, slots, ?_, fun queue => ?_,
      fun restart rest queue => next _ rest s works noFlush first queue,
      fun rest queue => next _ rest s works noFlush first queue,
      fun entry rest queue => next _ rest s works noFlush first queue⟩
    · simp only [writePassed, first, Nat.zero_add]
    · show (journalGoOn (writePassed e s)).journal.op = .none
      rw [journalGoOn_empty (writePassed e s) queue]
      rfl
  · have ends : writeEnd true s = replayReported found (writePassed e s) := by
      rw [writeEnd_head e s op, if_neg (by rw [given]; decide), headComplete_replay (writePassed e s) found work]
      exact serveHeldHistory_quiet (replayReported found (writePassed e s)) (.inr noneHeld)
    refine ⟨_, exec_settled (.journalWriteEnd true) s _ _ rfl ends ⟨⟨settled.1.1, settled.1.2.1, fun _ => queue⟩, settled.2⟩, ?_⟩
    simp only [replayReported, writePassed, first, Nat.zero_add]
  · have ends : writeEnd true s = coreOff (writePassed e s) := by
      rw [writeEnd_head e s op, if_pos given]
    refine ⟨_, exec_settled (.journalWriteEnd true) s _ _ rfl ends (coreOff_settled _), rfl, ?_⟩
    refine (writePassed_slots e s wf _).trans (if_pos ?_)
    rw [first, Nat.add_zero]
  · have moves := exec_movesOn (.journalWriteEnd false) _ _ _ s settled
      (exec_writeEnd false s _ (writeEnd_failed s e (.inr ⟨op, given⟩) noneHeld)) enough
    refine ⟨_, moves, fun k => ?_, rfl⟩
    have head : s.journal.slot = s.journal.sector * 60 := by rw [Journal.slot, slotNumber, first, Nat.add_zero]
    rw [← head]
    exact flashRead_flashWrite _ wf _ _ _
  · have ends : writeEnd true s = coreOff (entryLeft e rest s) :=
      (writeEnd_passed e _ rest s op queue).trans
        (serveHeldHistory_quiet (coreOff (entryLeft e rest s)) (.inl (by exact (nomatch ·))))
    exact ⟨_, exec_settled (.journalWriteEnd true) s _ _ rfl ends (coreOff_settled _), writePassed_slots e s wf, rfl, rfl, rfl,
      rfl, rfl, rfl, rfl, rfl⟩
  · by_cases cancelled : req.id ∈ s.link.cancelled
    · have blocks := coreRestart_blocks (entryLeft e rest s)
      obtain ⟨supply, link, account, -, switches, journal, -, -⟩ := blocks
      refine ⟨_, flushRestarts e req rest s op queue pending request cancelled, fun k => ?_, coreRestart_domain _,
        fun wanted => absurd cancelled wanted, fun _ => ⟨supply, link, account, switches, journal⟩⟩
      rw [coreRestart_flash (entryLeft e rest s) rfl]
      exact writePassed_slots e s wf k
    · obtain ⟨link, comes, notices, replied⟩ := flushWritten e req rest s settled run op queue noneHeld pending request cancelled
      exact ⟨_, comes, writePassed_slots e s wf, rfl, fun _ => ⟨rfl, notices, replied⟩, fun gone => absurd gone cancelled⟩
  · have served := tallyServed_eq e rest s run
    have flash : (tallyServed e rest s).flash = (writePassed e s).flash := serveHeldHistory_flash _
    obtain ⟨-, answers, -⟩ := serveHeldHistory_answers (entryLeft e rest s) run
    refine ⟨_, tallyWritten_run e rest s settled run op queue, fun k => ?_, fun r held wanted => ?_,
      fun noneWaits wanted => ?_, ?_, fun last => ?_, fun more => ?_, ?_⟩
    · rw [flash]
      exact writePassed_slots e s wf k
    · rw [flash]
      exact (answers r held wanted).pump
    · have order := foldl_answerHistory_inOrder s.journal.held
        { entryLeft e rest s with journal := { (entryLeft e rest s).journal with held := [] } }
        (congrArg Power.awake run) wanted (.inl noneWaits)
      rw [pump_replies, pump_completed, flash]
      refine (congrArg (fun t : State => t.link.replies ++ t.link.completed) (if_pos run)).trans (order.trans ?_)
      rw [show (entryLeft e rest s).link.completed = [] from noneWaits, List.append_nil]
      rfl
    · rw [pump_notices, tallyServed, serveHeldHistory_notices]
      rfl
    · rw [journalGoOn_empty _ (by rw [served]; exact last), served]
      rfl
    · obtain ⟨q, later, isMore⟩ := List.exists_cons_of_ne_nil more
      have begins := journalGoOn_begins (tallyServed e rest s) q later (by rw [served]; exact works)
        (by rw [served]; exact noFlush) (by rw [served]; rfl) (by rw [served]; exact isMore)
      rw [begins]
      dsimp only
      split <;> exact (nomatch ·)
    · rw [served]
      rfl
  · obtain ⟨first, code, day, minute, account, body, check⟩ := sealedEntry_fields sequence kind time snapshot e b sealed is
    obtain ⟨state, balance, debt, budget, armed, rs, re, allowance, active, staged, ct, ht, ft, vt, marks, lastDay, lastMinute⟩ :=
      snapshot_fields snapshot (kind.bytes ++ natBytes 4 e.check.toNat) _ rfl
    have at_ (o n v : Nat) (far : 9 ≤ o)
        (h : fieldAt (accountBytes snapshot ++ (kind.bytes ++ natBytes 4 e.check.toNat)) (o - 9) n = v) : fieldAt b o n = v :=
      (account o n far).trans h
    refine ⟨is ▸ entryBytes_length e, ?_, first, ?_, day, minute, at_ 9 1 _ (by decide) state, at_ 10 4 _ (by decide) balance,
      at_ 14 2 _ (by decide) debt, at_ 16 2 _ (by decide) budget, at_ 18 1 _ (by decide) armed, at_ 19 1 _ (by decide) rs,
      at_ 20 4 _ (by decide) re, at_ 24 4 _ (by decide) allowance, at_ 28 1 _ (by decide) active, at_ 29 1 _ (by decide) staged,
      at_ 30 6 _ (by decide) ct, at_ 36 6 _ (by decide) ht, at_ 42 6 _ (by decide) ft, at_ 48 6 _ (by decide) vt,
      fun i => at_ _ 4 _ (by omega) (?_), at_ 70 2 _ (by decide) lastDay, at_ 72 2 _ (by decide) lastMinute, check, ?_, ?_, ?_⟩
    · rw [is, sealed]
      exact valid_sealed sequence kind time snapshot
    · rw [code]
      cases kind <;> rfl
    · rw [show 54 + 4 * i.val - 9 = 45 + 4 * i.val by omega]
      exact marks i
    · rintro w bad rfl
      obtain ⟨high, marked, set, rest⟩ := checkpoint_fields w bad (natBytes 4 e.check.toNat) _ rfl
      rw [body 74 2 (by decide), body 76 4 (by decide), body 80 1 (by decide), body 81 8 (by decide)]
      exact ⟨high, marked, set, rest⟩
    · rintro t rfl
      have fields := token_fields t (natBytes 4 e.check.toNat) _ rfl
      rw [body 74 1 (by decide), body 75 2 (by decide), body 77 2 (by decide), body 79 2 (by decide), body 81 1 (by decide),
        body 82 7 (by decide), body 82 2 (by decide), body 84 2 (by decide), body 86 2 (by decide), body 88 1 (by decide),
        body 86 3 (by decide)]
      exact fields
    · rw [body 74 15 (by decide)]
      rintro (rfl | rfl)
      · exact (fieldAt_natBytes_append 15 0 _).trans rfl
      · exact (fieldAt_natBytes_append 15 0 _).trans rfl

end Sys2Proof.Machine
end

section
/-! Tokens committed (O52). -/

namespace Sys2Proof.Machine

theorem tokenKindOf_setTime (code : Nat) : tokenKindOf code = some .setTime ↔ code = 6 := by
  unfold tokenKindOf
  split <;> simp_all

theorem makeAnchor_timeSet (setTime : Bool) (o : AnchorOutcome) (c : DayClock) :
    (c.makeAnchor setTime o).timeSet = c.timeSet := by
  unfold DayClock.makeAnchor DayClock.anchored
  cases o with
  | none => rfl
  | confirm => cases setTime <;> rfl
  | move t n crossing =>
    dsimp only
    split <;> rfl
  | hold t => rfl

/-- The journal's write queue is all that a tally performed touches of it (R14). -/
theorem submitTally_journal_queue (restart : Bool) (s : State) :
    (submitTally restart s).journal = { s.journal with queue := (submitTally restart s).journal.queue } := by
  unfold submitTally
  split
  · rfl
  · split <;> rfl

theorem performTally_journal_queue (point : ClockTime) (s : State) :
    (performTally point s).journal = { s.journal with queue := (performTally point s).journal.queue } := by
  unfold performTally
  dsimp only
  split
  · exact (submitTally_journal_queue _ _).trans (by rw [takeCharged_journal])
  · rw [takeCharged_journal]

theorem releasePin_journal_queue (s : State) :
    (releasePin s).journal = { s.journal with queue := (releasePin s).journal.queue } := by
  unfold releasePin
  dsimp only
  split
  · rfl
  · split
    · exact performTally_journal_queue _ _
    · rfl

/-! ## The commit (R61) -/

/-- The part with a commit's values taken and its caps given (R61, R24). -/
def valuesTaken (entry : TokenEntry) (s : State) : State := giveCaps (commitValues entry s)

/-- What the commit of a TOKEN entry makes of a part in RUN. -/
structure TokenCommitted (entry : TokenEntry) (i : IntakeEntry) (last : Charged) (s t : State) : Prop where
  flash : t.flash = s.flash
  account : t.account = { s.account with acct := last.acct, pinned := false, pendingTally := none }
  tokens : t.tokens = { s.tokens with
    intake := [], service := .idle, window := s.tokens.window.mark entry.body.serial
    lastRelay := if i.source = .relay then some ⟨tokenKind i.token, tokenSerial i.token, .accepted⟩
      else s.tokens.lastRelay }
  domain : t.domain = { s.domain with
    penalty := ⟨0, 0, 0⟩
    clock := s.domain.clock.makeAnchor (decide (entry.body.kind = 6)) entry.body.outcome }
  digests : t.digests = s.digests ++ [⟨.ownReceipt entry.body.serial t.domain.clock.day,
    s.provisioning.settings.districtKey,
    [s.provisioning.settings.kitNumber, entry.body.serial, t.domain.clock.day]⟩]
  relay : t.relay = match s.domain.clock.anchorDayChange entry.body.outcome with
    | some day => s.relay.sweep day
    | none => s.relay
  meter : t.meter = s.meter
  supply : t.supply = s.supply
  provisioning : t.provisioning = s.provisioning
  held : t.journal.held = s.journal.held
  replied : ∀ req : Request, i.source = .keypad req → req.id ∉ s.link.cancelled → Replied ⟨req.id, req.tag, req.kind,
    tokenReply .accepted (tokenKind i.token) (tokenSerial i.token) (acceptedExtra entry), false⟩ t.link
  replies : i.source = .relay → t.link.replies = s.link.replies
  notices : t.link.notices = (s.link.notices ||| if i.source = .relay then 0x0004#16 else 0)
    ||| chargeCauses (s.account.acct.state ≠ entry.snapshot.state) (entry.lowCredit = true) (entry.tariffApplied = true)
    ||| chargeCauses (entry.snapshot.state ≠ last.acct.state) (last.lowCredit = true) (last.tariffApplied = true)
  caps : s.switches.switching = true → ∀ n, (t.switches.ports.get n).accountCap =
    (accountCaps (tariffOf s.provisioning.settings last.acct.activeTariff) last.acct).get n

theorem commitNotices_notices (before : AccountState) (entry : TokenEntry) (s : State) (on : s.supply.power ≠ .off) :
    (commitNotices before entry s).link.notices = s.link.notices |||
      chargeCauses (before ≠ entry.snapshot.state) (entry.lowCredit = true) (entry.tariffApplied = true) := by
  unfold commitNotices chargeCauses
  rw [raiseIf_notices _ _ _ (by simpa using on), raiseIf_notices _ _ _ (by simpa using on),
    raiseIf_notices _ _ _ (by simpa using on)]
  simp only [decide_eq_true_eq, BitVec.or_assoc]
  rfl

theorem commitNotices_replied (before : AccountState) (entry : TokenEntry) (s : State) :
    (commitNotices before entry s).link.replies = s.link.replies
      ∧ (commitNotices before entry s).link.completed = s.link.completed := by
  simp only [commitNotices, raiseIf_replies, raiseIf_completed, and_self]

theorem valuesTaken_domain (entry : TokenEntry) (s : State) :
    (valuesTaken entry s).domain = { s.domain with
      penalty := ⟨0, 0, 0⟩
      clock := s.domain.clock.makeAnchor (decide (entry.body.kind = 6)) entry.body.outcome } := by
  rw [valuesTaken, giveCaps_domain, commitValues]
  simp only [tokenKindOf_setTime]
  rfl

/-- What a commit hands to the release of the pin: the values taken, the result delivered, and the notices raised. -/
def commitDelivered (entry : TokenEntry) (s : State) : State :=
  commitNotices s.account.acct.state entry (deliverAccepted entry (valuesTaken entry s))

theorem commitToken_eq (entry : TokenEntry) (s : State) : commitToken entry s = releasePin (commitDelivered entry s) := rfl

theorem commitToken_committed (entry : TokenEntry) (i : IntakeEntry) (last : Charged) (s : State)
    (run : s.supply.power = .run) (intake : s.tokens.intake = [i])
    (tally : (∃ point, s.account.pendingTally = some point ∧ After point entry.snapshot.lastTally
          ∧ last = tallyAndBoundary s.provisioning.settings s.meter.counts point entry.snapshot)
        ∨ ((∀ point, s.account.pendingTally = some point → ¬After point entry.snapshot.lastTally)
          ∧ last = ⟨entry.snapshot, false, false⟩)) :
    TokenCommitted entry i last s (commitToken entry s) := by
  have intake' : (valuesTaken entry s).tokens.intake = [i] := by rw [valuesTaken, giveCaps_tokens]; exact intake
  have power : (valuesTaken entry s).supply.power = .run := by rw [valuesTaken, giveCaps_supply]; exact run
  have on : (valuesTaken entry s).supply.power ≠ .off := by rw [power]; decide
  have link : (valuesTaken entry s).link = s.link := giveCaps_link _
  have domain := valuesTaken_domain entry s
  have account : (commitDelivered entry s).account = { s.account with acct := entry.snapshot } := by
    simp [commitDelivered, commitNotices, deliverAccepted, valuesTaken, commitValues]
  have meter : (commitDelivered entry s).meter = s.meter := by
    simp [commitDelivered, commitNotices, deliverAccepted, valuesTaken, commitValues]
  have provisioning : (commitDelivered entry s).provisioning = s.provisioning := by
    simp [commitDelivered, commitNotices, deliverAccepted, valuesTaken, commitValues]
  have supply : (commitDelivered entry s).supply = s.supply := by
    simp [commitDelivered, commitNotices, deliverAccepted, valuesTaken, commitValues]
  have sameDomain : (commitDelivered entry s).domain = (valuesTaken entry s).domain := by
    simp [commitDelivered, commitNotices, deliverAccepted]
  have delivered : (deliverAccepted entry (valuesTaken entry s)).link
      = (settleToken .accepted (acceptedExtra entry) (valuesTaken entry s)).link := by
    rw [deliverAccepted, requestReceipt_link]
  have released := releasePin_released last (commitDelivered entry s) (by rw [supply, run]) (by
    rw [PinTally, account, meter, provisioning]
    exact tally)
  obtain ⟨replies, completed⟩ := commitNotices_replied s.account.acct.state entry (deliverAccepted entry (valuesTaken entry s))
  rw [delivered] at replies completed
  refine ⟨?_, ?_, ?_, ?_, ?_, ?_, ?_, ?_, ?_, ?_, fun req source wanted => ?_, fun source => ?_, ?_, fun switching => ?_⟩
    <;> rw [commitToken_eq]
  · simp [commitDelivered, commitNotices, deliverAccepted, valuesTaken, commitValues]
  · rw [released.account, account]
  · rw [releasePin_tokens]
    simp only [commitDelivered, commitNotices, deliverAccepted, raiseIf_tokens, requestReceipt_tokens]
    rw [settleToken_tokens _ _ _ i [] intake', valuesTaken, giveCaps_tokens]
    rfl
  · rw [releasePin_domain, sameDomain, domain]
  · rw [releasePin_digests, releasePin_domain, sameDomain]
    simp only [commitDelivered, commitNotices, deliverAccepted, raiseIf_digests]
    rw [requestReceipt, requestDigest_run _ _ (by rw [settleToken_supply, power])]
    simp [valuesTaken, commitValues]
  · rw [releasePin_relay]
    simp only [commitDelivered, commitNotices, deliverAccepted, raiseIf_relay, requestReceipt_relay, settleToken_relay]
    rw [valuesTaken, giveCaps_relay]
    rfl
  · rw [releasePin_meter, meter]
  · rw [releasePin_supply, supply]
  · rw [releasePin_provisioning, provisioning]
  · rw [releasePin_journal_queue]
    simp [commitDelivered, commitNotices, deliverAccepted, valuesTaken, commitValues]
  · have replied := settleToken_replied .accepted (acceptedExtra entry) (valuesTaken entry s) i [] intake'
      (congrArg Power.awake power) req source (by rw [link]; exact wanted)
    rw [Replied, ← replies, ← completed] at replied
    rw [Replied, released.replies, released.completed]
    exact replied
  · rw [released.replies]
    exact replies.trans ((settleToken_relay_replies _ _ _ i [] intake' source).trans (congrArg Link.replies link))
  · rw [released.notices, account]
    refine congrArg (· ||| _) ?_
    rw [commitDelivered, commitNotices_notices _ _ _ (by simp [deliverAccepted, power]), delivered,
      settleToken_notices _ _ _ i [] intake' on, link]
  · have caps := released.caps
    have switches : (commitDelivered entry s).switches = (giveCaps (commitValues entry s)).switches := by
      simp [commitDelivered, commitNotices, deliverAccepted, valuesTaken]
    rw [switches, giveCaps_switching, account, provisioning] at caps
    refine caps switching fun n => ?_
    rw [giveCaps_port (commitValues entry s) switching n]
    exact (retarget_kept _).2.2.1

/-! ## The commit after holdover has begun (R61, R174) -/

/-- A link that differs at most in its notice set. -/
def NoticesOnly (l m : Link) : Prop := m = { l with notices := m.notices }

theorem NoticesOnly.trans {l m n : Link} (first : NoticesOnly l m) (last : NoticesOnly m n) : NoticesOnly l n := by
  unfold NoticesOnly at *
  rw [last, first]

theorem raiseIf_holdover (b : Bool) (c : NoticeCause) (s : State) (holdover : s.supply.power = .holdover) :
    NoticesOnly s.link (raiseIf b c s).link := by
  cases b with
  | false => rfl
  | true =>
    rw [raiseIf, if_pos rfl, raise_holdover c s holdover]
    rfl

theorem settleToken_holdover (r : TokenResult) (x : List Byte) (s : State) (e : IntakeEntry) (rest : List IntakeEntry)
    (held : s.tokens.intake = e :: rest) (holdover : s.supply.power = .holdover) :
    NoticesOnly s.link (settleToken r x s).link := by
  cases source : e.source with
  | keypad req =>
    rw [settleToken_ofKeypad r x s e rest req held source, answer, completeReply]
    simp only [holdover]
    rfl
  | relay =>
    rw [settleToken_ofRelay r x s e rest held source, raise_holdover _ _ (by exact holdover)]
    rfl

theorem commitDelivered_holdover (entry : TokenEntry) (i : IntakeEntry) (s : State) (holdover : s.supply.power = .holdover)
    (intake : s.tokens.intake = [i]) : NoticesOnly s.link (commitDelivered entry s).link := by
  have intake' : (valuesTaken entry s).tokens.intake = [i] := by rw [valuesTaken, giveCaps_tokens]; exact intake
  have power : (valuesTaken entry s).supply.power = .holdover := by rw [valuesTaken, giveCaps_supply]; exact holdover
  have settles := settleToken_holdover .accepted (acceptedExtra entry) (valuesTaken entry s) i [] intake' power
  rw [show (valuesTaken entry s).link = s.link from giveCaps_link _] at settles
  refine settles.trans ?_
  rw [commitDelivered, commitNotices, deliverAccepted]
  have power' : (requestReceipt entry.body.serial
      (settleToken .accepted (acceptedExtra entry) (valuesTaken entry s))).supply.power = .holdover := by
    rw [requestReceipt_supply, settleToken_supply, power]
  refine NoticesOnly.trans ?_ (raiseIf_holdover _ _ _ (by rw [raiseIf_supply, raiseIf_supply, power']))
  refine NoticesOnly.trans ?_ (raiseIf_holdover _ _ _ (by rw [raiseIf_supply, power']))
  have raised := raiseIf_holdover (decide (s.account.acct.state ≠ entry.snapshot.state)) .accountState _ power'
  rwa [requestReceipt_link] at raised

/-- A commit in HOLDOVER: no reply goes out, no envelope is requested, and a pending tally point is discarded (R61, R22). -/
theorem commitToken_holdover (entry : TokenEntry) (i : IntakeEntry) (s : State) (holdover : s.supply.power = .holdover)
    (intake : s.tokens.intake = [i]) (stopped : s.switches.switching = false) :
    commitToken entry s = { s with
        account := { s.account with acct := entry.snapshot, pinned := false, pendingTally := none }
        tokens := (commitToken entry s).tokens
        domain := { s.domain with
          penalty := ⟨0, 0, 0⟩
          clock := s.domain.clock.makeAnchor (decide (entry.body.kind = 6)) entry.body.outcome }
        relay := (commitToken entry s).relay
        link := { s.link with notices := (commitToken entry s).link.notices } }
      ∧ (commitToken entry s).tokens.intake = [] ∧ (commitToken entry s).tokens.service = .idle
      ∧ (commitToken entry s).tokens.window = s.tokens.window.mark entry.body.serial
      ∧ (commitToken entry s).relay.service = s.relay.service ∧ (commitToken entry s).relay.waiting = s.relay.waiting := by
  have power : (commitDelivered entry s).supply = s.supply := by
    simp [commitDelivered, commitNotices, deliverAccepted, valuesTaken, commitValues]
  have digests : (commitDelivered entry s).digests = s.digests := by
    simp only [commitDelivered, commitNotices, deliverAccepted, raiseIf_digests, requestReceipt, requestDigest,
      settleToken_supply, valuesTaken, giveCaps_supply, commitValues, holdover]
    simp
  have switches : (commitDelivered entry s).switches = s.switches := by
    have same : (valuesTaken entry s).switches = s.switches := by
      rw [valuesTaken, giveCaps, if_neg (by exact Bool.eq_false_iff.1 stopped)]
      rfl
    simpa [commitDelivered, commitNotices, deliverAccepted] using same
  have tokens : (commitDelivered entry s).tokens = (settleToken .accepted (acceptedExtra entry) (valuesTaken entry
    s)).tokens := by
    simp [commitDelivered, commitNotices, deliverAccepted]
  have intake' : (valuesTaken entry s).tokens.intake = [i] := by rw [valuesTaken, giveCaps_tokens]; exact intake
  have relay : (commitDelivered entry s).relay = (commitValues entry s).relay := by
    simp [commitDelivered, commitNotices, deliverAccepted, valuesTaken]
  have link : NoticesOnly s.link (commitDelivered entry s).link := commitDelivered_holdover entry i s holdover intake
  rw [settleToken_tokens _ _ _ i [] intake', valuesTaken, giveCaps_tokens] at tokens
  rw [commitToken_eq, releasePin_discards (commitDelivered entry s) (.inl (by rw [power, holdover]; decide))]
  refine ⟨state_ext ?_ ?_ ?_ ?_ ?_ rfl digests ?_ switches power ?_ rfl link ?_, ?_, ?_, ?_, ?_⟩
  · simp [commitDelivered, commitNotices, deliverAccepted, valuesTaken, commitValues]
  · simp [commitDelivered, commitNotices, deliverAccepted, valuesTaken, commitValues]
  · simp [commitDelivered, commitNotices, deliverAccepted, valuesTaken, commitValues]
  · have domain := valuesTaken_domain entry s
    simpa [commitDelivered, commitNotices, deliverAccepted] using domain
  · simp [commitDelivered, commitNotices, deliverAccepted, valuesTaken, commitValues]
  · simp [commitDelivered, commitNotices, deliverAccepted, valuesTaken, commitValues]
  · simp [commitDelivered, commitNotices, deliverAccepted, valuesTaken, commitValues]
  · simp [commitDelivered, commitNotices, deliverAccepted, valuesTaken, commitValues]
  · rw [tokens]
  · rw [tokens]
  · rw [tokens]
    rfl
  · rw [relay]
    unfold commitValues
    dsimp only
    constructor <;> split <;> rfl

theorem or_ite (p q : Prop) [Decidable p] [Decidable q] (c : BitVec 16) :
    (if p ∨ q then c else 0) = (if p then c else 0) ||| (if q then c else 0) := by
  by_cases hp : p <;> by_cases hq : q <;> simp [hp, hq]

/-- Settles O52: the commit in RUN, and after holdover has begun. -/
theorem tokensCommit : Obligations.TokensCommit := by
  refine ⟨fun e entry i last s settled run op queue noneHeld service intake tally => ?_,
    fun e entry i s settled wf power deaf stopped op queue works noFlush service intake => ?_⟩
  · have committed := commitToken_committed entry i last (entryLeft e [] s) run intake tally
    have ends : writeEnd true s = commitToken entry (entryLeft e [] s) :=
      (writeEnd_passed e _ [] s op queue).trans
        (serveHeldHistory_quiet (commitToken entry (entryLeft e [] s)) (.inr (committed.held.trans noneHeld)))
    have comes : exec (.journalWriteEnd true) s = _ := exec_writeEnd true s _ ends
    rw [finish_goesOn .tokenFirst (commitToken entry (entryLeft e [] s)) (by rw [committed.tokens]; exact fun _ => rfl) (by
      rw [committed.relay, committed.domain]
      dsimp only
      rw [makeAnchor_timeSet]
      have store := settled.1.2.1
      split <;> exact store)] at comes
    refine ⟨_, comes, fun wf k => ?_, committed.account, committed.tokens, committed.domain, fun req source wanted => ?_,
      fun source => ?_, ?_, committed.digests, committed.caps, committed.meter, committed.supply, committed.provisioning,
      fun noDay => ?_, fun day isDay => ?_⟩
    · show flashRead (commitToken entry (entryLeft e [] s)).flash k = _
      rw [committed.flash]
      exact writePassed_slots e s wf k
    · have replied := (committed.replied req source wanted).pump
      rw [tokenReply, acceptedExtra, TokenResult.code] at replied
      simpa only [List.append_assoc] using replied
    · exact (pump_replies _).trans (committed.replies source)
    · show (commitToken entry (entryLeft e [] s)).link.pump.notices = _
      rw [pump_notices, committed.notices, or_ite, or_ite, or_ite, chargeCauses, chargeCauses]
      show (s.link.notices ||| _) ||| _ ||| _ = _
      ac_rfl
    · refine committed.relay.trans ?_
      rw [show (entryLeft e [] s).domain.clock.anchorDayChange entry.body.outcome = _ from noDay]
      rfl
    · refine committed.relay.trans ?_
      rw [show (entryLeft e [] s).domain.clock.anchorDayChange entry.body.outcome = _ from isDay]
      rfl
  · obtain ⟨commits, noIntake, idle, window, storeIdle, waiting⟩ :=
      commitToken_holdover entry i (entryLeft e [.suspend] s) power intake stopped
    have ends : writeEnd true s = commitToken entry (entryLeft e [.suspend] s) :=
      (writeEnd_passed e _ [.suspend] s op queue).trans (serveHeldHistory_quiet (commitToken entry (entryLeft e [.suspend] s))
        (.inl (by rw [commits]; exact fun run => (nomatch power.symm.trans run))))
    have comes : exec (.journalWriteEnd true) s = _ := exec_writeEnd true s _ ends
    rw [finish_goesOn .tokenFirst (commitToken entry (entryLeft e [.suspend] s)) (fun _ => noIntake) (by
      rw [storeIdle, waiting, commits]
      dsimp only
      rw [makeAnchor_timeSet]
      exact settled.1.2.1)] at comes
    have quiet : (commitToken entry (entryLeft e [.suspend] s)).link.pump = (commitToken entry (entryLeft e [.suspend] s)).link :=
      pump_of_settled _ (by rw [commits]; exact fun both => (nomatch deaf.symm.trans both.1))
    have goesOn := journalGoOn_begins (commitToken entry (entryLeft e [.suspend] s)) .suspend [] (by rw [commits]; exact works)
      (by rw [commits]; exact noFlush) (by rw [commits]; rfl) (by rw [commits]; rfl)
    rw [quiet, goesOn] at comes
    refine ⟨_, comes, fun k => ?_, noIntake, idle, window, ?_, ?_⟩
    · rw [commits]
      exact writePassed_slots e s wf k
    · rw [commits]
      rfl
    · rw [commits]
      rfl

end Sys2Proof.Machine
end

section
/-! Provisioning, from its programming to its completion (O56). -/

namespace Sys2Proof.Machine

/-! ## The ring prepared (R147) -/

theorem continueRing_next (sector : Nat) (s : State) (more : sector < 7) :
    continueRing sector s = { s with journal := { s.journal with op := .erase (sector + 1) } } := if_pos more

/-- After sector 7 the lowest good sector is headed with the first CHECKPOINT (R147). -/
theorem continueRing_heads (s : State) : continueRing 7 s = { s with journal := { s.journal with
    sector := lowestGood s.journal.bad, nextSlot := 0, nextSequence := 1, work := .ringHead
    op := .head (sealEntry 1 (.checkpoint ⟨0, []⟩ s.journal.bad) s.provisioning.settings.initialTime
      (provisionedAccount s.provisioning.settings)) } } := rfl

theorem eraseEnd_ring (sector : Nat) (left : List SlotLeft) (s : State) (op : s.journal.op = .erase sector)
    (ring : s.journal.work = .ringErase) (noneHeld : s.journal.held = []) (given : s.supply.givenUp = false) :
    eraseEnd true left s = continueRing sector (operationEnded (flashErase s.flash sector) s.journal.bad s) := by
  have quiet := serveHeldHistory_quiet (operationEnded (flashErase s.flash sector) s.journal.bad s) (.inr noneHeld)
  have ends : erasePassed sector s = if (operationEnded (flashErase s.flash sector) s.journal.bad s).supply.givenUp = true
      then coreOff (operationEnded (flashErase s.flash sector) s.journal.bad s)
      else if (operationEnded (flashErase s.flash sector) s.journal.bad s).journal.work = .ringErase
      then continueRing sector (operationEnded (flashErase s.flash sector) s.journal.bad s)
      else beginHead sector (operationEnded (flashErase s.flash sector) s.journal.bad s) :=
    congrArg (fun t : State => if t.supply.givenUp = true then coreOff t
      else if t.journal.work = .ringErase then continueRing sector t else beginHead sector t) quiet
  rw [eraseEnd, op]
  exact ends.trans ((if_neg (Bool.eq_false_iff.1 given)).trans (if_pos ring))

theorem eraseEnd_ringFailed (sector : Nat) (left : List SlotLeft) (s : State) (op : s.journal.op = .erase sector)
    (ring : s.journal.work = .ringErase) (noneHeld : s.journal.held = []) (given : s.supply.givenUp = false)
    (enough : 2 ≤ goodSectors (addBad s.journal.bad sector)) :
    eraseEnd false left s = continueRing sector
      (operationEnded (flashEraseFailed s.flash sector left) (addBad s.journal.bad sector) s) := by
  have quiet := serveHeldHistory_quiet (operationEnded (flashEraseFailed s.flash sector left)
    (addBad s.journal.bad sector) s) (.inr noneHeld)
  have ends : eraseFailed sector left s = _ :=
    congrArg (fun t : State => if t.supply.givenUp = true then coreOff t
      else if 2 ≤ goodSectors t.journal.bad ∧ t.journal.work = .ringErase then continueRing sector t
      else moveOn sector t) quiet
  rw [eraseEnd, op]
  exact ends.trans ((if_neg (Bool.eq_false_iff.1 given)).trans (if_pos ⟨enough, ring⟩))

/-- The part with a journal operation begun. -/
theorem Settled.busy {s : State} (settled : Settled s) (flash : Flash) (journal : Journal) (busy : journal.op ≠ .none) :
    Settled { s with flash, journal } :=
  ⟨settled.1.withJournal flash journal s.link fun free => absurd free.2.2 busy, settled.2⟩

/-! ## Provisioning complete (R177) -/

theorem raiseIf_cancelled (b : Bool) (c : NoticeCause) (s : State) :
    (raiseIf b c s).link.cancelled = s.link.cancelled := by
  cases b with
  | false => rfl
  | true => rw [raiseIf, if_pos rfl, raise_cancelled]

/-- What the completion of provisioning makes of a part in RUN. -/
structure Provisioned (f : Settings) (req : Request) (s t : State) : Prop where
  provisioning : t.provisioning = { s.provisioning with phase := .idle, request := none }
  flash : t.flash = s.flash
  domain : t.domain = { s.domain with
    penalty := ⟨0, 0, 0⟩
    clock := { s.domain.clock with
      day := f.initialTime.day, minute := f.initialTime.minute, second := 0, timeSet := true
      condition := .running, hold := 0, anchorAge := 0 } }
  account : t.account = ⟨provisionedAccount f, false, none, true⟩
  tokens : t.tokens = { s.tokens with window := ⟨0, []⟩ }
  meter : ∀ i, (t.meter.ports.get i).count = 0 ∧ (t.meter.ports.get i).residue = 0
  journal : t.journal = { s.journal with work := .ordinary }
  relay : t.relay = s.relay
  supply : t.supply = s.supply
  caps : s.switches.switching = true → ∀ i, (t.switches.ports.get i).accountCap =
    (accountCaps (tariffOf f (provisionedAccount f).activeTariff) (provisionedAccount f)).get i
  accountState : t.link.notices.getLsbD 0 = true
  journalFailed : s.journal.failed = true → t.link.notices.getLsbD 10 = true
  replied : Replied ⟨req.id, req.tag, req.kind, 0 :: (natBytes 4 f.kitNumber ++ [s.journal.state.code]), false⟩ t.link

theorem completeProvisioning_provisioned (f : Settings) (req : Request) (s : State) (run : s.supply.power = .run)
    (settings : s.provisioning.settings = f) (request : s.provisioning.request = some req)
    (wanted : req.id ∉ s.link.cancelled) : Provisioned f req s (completeProvisioning s) := by
  have answers : completeProvisioning s = answer req (provisionedBody (giveCaps (provisionValues s)))
      { raiseIf (giveCaps (provisionValues s)).journal.failed .journalFailed
          (raise .accountState (giveCaps (provisionValues s))) with
        provisioning := { s.provisioning with phase := .idle, request := none } } := by
    unfold completeProvisioning
    dsimp only
    rw [answerProvision, raiseIf_provisioning, raise_provisioning, giveCaps_provisioning,
      show (provisionValues s).provisioning.request = some req from request]
    rfl
  have journal : (giveCaps (provisionValues s)).journal = { s.journal with work := .ordinary } := giveCaps_journal _
  have awake : (provisionValues s).supply.power.awake = true := congrArg Power.awake run
  have link : (provisionValues s).link = s.link := rfl
  have settings' : (provisionValues s).provisioning.settings = f := settings
  have values : (provisionValues s).account = ⟨provisionedAccount f, false, none, true⟩ := by
    rw [← settings]
    rfl
  have zeroed : (provisionValues s).meter.ports = s.meter.ports.map (fun m => { m with count := 0, residue := 0 }) := rfl
  have body : provisionedBody (giveCaps (provisionValues s))
      = 0 :: (natBytes 4 f.kitNumber ++ [s.journal.state.code]) := by
    rw [provisionedBody, journal, giveCaps_provisioning, settings']
    rfl
  refine ⟨?_, ?_, ?_, ?_, ?_, fun i => ?_, ?_, ?_, ?_, fun switching i => ?_, ?_, fun failed => ?_, ?_⟩ <;> rw [answers, answer]
  · rw [completeReply_provisioning]
  · rw [completeReply_flash, raiseIf_flash, raise_flash, giveCaps_flash]
    rfl
  · rw [completeReply_domain, raiseIf_domain, raise_domain, giveCaps_domain, ← settings]
    rfl
  · rw [completeReply_account, raiseIf_account, raise_account, giveCaps_account, values]
  · rw [completeReply_tokens, raiseIf_tokens, raise_tokens, giveCaps_tokens]
    rfl
  · rw [completeReply_meter, raiseIf_meter, raise_meter, giveCaps_meter]
    rw [zeroed, perPort_get_map]
    exact ⟨rfl, rfl⟩
  · rw [completeReply_journal, raiseIf_journal, raise_journal, journal]
  · rw [completeReply_relay, raiseIf_relay, raise_relay, giveCaps_relay]
    rfl
  · rw [completeReply_supply, raiseIf_supply, raise_supply, giveCaps_supply]
    rfl
  · rw [completeReply_switches, raiseIf_switches, raise_switches, giveCaps_port (provisionValues s) switching i, settings',
      values]
    exact (retarget_kept _).2.2.1
  · rw [completeReply_notices, raiseIf_otherBit _ _ _ 0 (by decide), raise_bit, giveCaps_supply, decide_eq_true, Bool.or_true]
    exact ⟨awake_on awake, rfl⟩
  · rw [completeReply_notices, raiseIf_bit, decide_eq_true, Bool.or_true]
    rw [journal, raise_supply, giveCaps_supply]
    exact ⟨failed, awake_on awake, rfl⟩
  · rw [body]
    refine replied_completeReply _ _ _ ?_ (.inl ⟨rfl, ?_⟩)
    · rw [raiseIf_supply, raise_supply, giveCaps_supply]
      exact awake
    · rw [raiseIf_cancelled, raise_cancelled, giveCaps_link]
      exact wanted

/-- The event in which provisioning completes, nothing else waiting (R177). -/
theorem exec_provisioned (c : Instr) (f : Settings) (req : Request) (s x t : State)
    (run : exec c s = .next (finish .tokenFirst t)) (provisioned : Provisioned f req x t)
    (noIntake : x.tokens.intake = []) (noneWaits : x.relay.waiting = []) (queue : x.journal.queue = []) :
    exec c s = .next { t with link := t.link.pump } := by
  have journal : (journalGoOn t).journal.op = t.journal.op := by
    rw [journalGoOn_empty t (by rw [provisioned.journal]; exact queue)]
  rw [run, finish_goesOn _ t (fun _ => by rw [provisioned.tokens]; exact noIntake)
    (fun _ => by rw [provisioned.relay]; exact noneWaits), journal]

theorem latestTallyPoint_count (b : ClockTime) :
    (latestTallyPoint b).day * 1440 + (latestTallyPoint b).minute = 15 * ((b.day * 1440 + b.minute) / 15)
      ∧ (latestTallyPoint b).minute < 1440 := by
  unfold latestTallyPoint ClockTime.ofCount ClockTime.count
  dsimp only
  omega

/-- The part with its record DAMAGED by a programming whose verify failed (R177). -/
def recordSpoiled (s : State) : State := { s with provisioning := ⟨.spoiled, .damaged, .idle, none⟩ }

theorem completeProvisioning_kept (s : State) :
    (completeProvisioning s).supply = s.supply
      ∧ (completeProvisioning s).journal = { s.journal with work := .ordinary } := by
  unfold completeProvisioning answerProvision
  dsimp only
  split
  · exact ⟨by simp [provisionValues, zeroMeter], by simp [provisionValues, zeroMeter]⟩
  · exact ⟨by simp [provisionValues, zeroMeter], by simp [provisionValues, zeroMeter]⟩

/-- The two ends of the ring's preparation at which provisioning completes: the first CHECKPOINT written, and the failed
erase that leaves fewer than two good sectors (R147, R177). -/
theorem exec_completes (c : Instr) (s : State) (run : s.supply.power = .run) (noneHeld : s.journal.held = [])
    (queue : s.journal.queue = []) (given : s.supply.givenUp = false) :
    (∀ e, c = .journalWriteEnd true → s.journal.op = .head e → s.journal.work = .ringHead →
        exec c s = .next (finish .tokenFirst (completeProvisioning (writePassed e s))))
      ∧ (∀ sector left, c = .sectorEraseEnd false left → s.journal.work = .ringErase → s.journal.op = .erase sector →
        goodSectors (addBad s.journal.bad sector) < 2 →
        exec c s = .next (finish .tokenFirst (completeProvisioning (raise .journalFailed
          (failedAfter (flashEraseFailed s.flash sector left) (addBad s.journal.bad sector) s))))) := by
  constructor
  · rintro e rfl op ring
    obtain ⟨supply, journal⟩ := completeProvisioning_kept (writePassed e s)
    have completes : headComplete (writePassed e s) = completeProvisioning (writePassed e s) := by
      rw [headComplete, show (writePassed e s).journal.work = _ from ring]
      exact if_neg (by rw [supply, show (writePassed e s).supply.power = _ from run]; decide)
    refine exec_writeEnd true s _ ?_
    rw [writeEnd_head e s op, if_neg (by rw [given]; decide), completes]
    exact serveHeldHistory_quiet _ (.inr (by rw [journal]; exact noneHeld))
  · rintro sector left rfl ring op few
    obtain ⟨supply, -⟩ := completeProvisioning_kept (raise .journalFailed
      (failedAfter (flashEraseFailed s.flash sector left) (addBad s.journal.bad sector) s))
    have ends := (eraseEnd_failed sector left s op noneHeld given (.inr few)).trans (moveOn_fails sector _ few)
    refine exec_eraseEnd false left s _ (ends.trans ?_)
    rw [journalFail_eq, show (operationEnded (flashEraseFailed s.flash sector left) (addBad s.journal.bad sector) s).journal.queue
      = [] from queue, List.foldl_nil]
    have completes : endWork (raise .journalFailed
        (failedAfter (flashEraseFailed s.flash sector left) (addBad s.journal.bad sector) s)) =
        completeProvisioning (raise .journalFailed
          (failedAfter (flashEraseFailed s.flash sector left) (addBad s.journal.bad sector) s)) := by
      rw [endWork, raise_journal, show (failedAfter (flashEraseFailed s.flash sector left)
        (addBad s.journal.bad sector) s).journal.work = _ from ring]
    rw [failedAfter] at completes supply
    rw [completes, supply, raise_supply]
    exact if_neg (by
      rw [show (failedJournal (operationEnded (flashEraseFailed s.flash sector left)
        (addBad s.journal.bad sector) s)).supply.power = _ from run]
      decide)

/-- Settles O56: the programming's end, the ring's preparation, and the completion at either of its ends. -/
theorem provisioningRuns : Obligations.ProvisioningRuns := by
  refine ⟨fun f req s settled run => ⟨fun phase request => ⟨?_, fun wanted => ?_⟩, fun verify idle => ?_⟩,
    fun sector left s settled op ring noneHeld works given => ⟨fun more => ?_, fun more enough => ?_, fun last => ?_,
      fun last enough => ?_⟩,
    fun c req f s settled run valid settings request wanted noneHeld queue given noIntake noneWaits isEnd => ?_,
    fun f a isAccount => ?_⟩
  · have ends : programmingDone true s = { s with
        provisioning := ⟨.written f (recordCheck f), .valid, .ring, some req⟩
        journal := { Journal.start with op := .erase 0, work := .ringErase } } := by
      rw [programmingDone, phase, ← request]
      rfl
    exact exec_settled (.programmingEnd true) s _ _ rfl ends
      ⟨⟨settled.1.1, settled.1.2.1, fun free => (nomatch free.2.2)⟩, settled.2⟩
  · have ends : programmingDone false s = answer req [7, 1] (recordSpoiled s) := by
      rw [programmingDone, phase]
      dsimp only
      rw [if_neg (by decide), answerProvision, request]
      show offIf (decide ((answer req [7, 1] (recordSpoiled s)).supply.power = .holdover)) _ = _
      rw [answer, completeReply_supply, show (recordSpoiled s).supply.power = _ from run]
      rfl
    rw [answer, completeReply_eq _ (recordSpoiled s)] at ends
    refine ⟨_, exec_unitsSettled (.programmingEnd false) s _ _ rfl ends settled.1, ?_, ?_, rfl⟩
    · exact (replied_answer req _ (recordSpoiled s) (congrArg Power.awake run) wanted).pump
    · rw [pump_notices, completeReply_notices]
      rfl
  · exact exec_settled (.programmingEnd verify) s _ s rfl (by rw [programmingDone, idle]) settled
  · refine ⟨_, exec_settled (.sectorEraseEnd true left) s _ _ rfl
      ((eraseEnd_ring sector left s op ring noneHeld given).trans (continueRing_next sector _ more)) ?_, rfl, fun k => ?_⟩
    · exact settled.busy _ _ (by exact (nomatch ·))
    · exact flashRead_flashErase _ _ _
  · refine ⟨_, exec_settled (.sectorEraseEnd false left) s _ _ rfl
      ((eraseEnd_ringFailed sector left s op ring noneHeld given enough).trans (continueRing_next sector _ more)) ?_, rfl,
      fun wf k => flashRead_flashEraseFailed _ wf _ _ _⟩
    exact settled.busy _ _ (by exact (nomatch ·))
  · subst last
    refine ⟨_, exec_settled (.sectorEraseEnd true left) s _ _ rfl
      ((eraseEnd_ring 7 left s op ring noneHeld given).trans (continueRing_heads _)) ?_, rfl,
      fun k => flashRead_flashErase _ _ _⟩
    exact settled.busy _ _ (by exact (nomatch ·))
  · subst last
    refine ⟨_, exec_settled (.sectorEraseEnd false left) s _ _ rfl
      ((eraseEnd_ringFailed 7 left s op ring noneHeld given enough).trans (continueRing_heads _)) ?_, rfl,
      fun wf k => flashRead_flashEraseFailed _ wf _ _ _⟩
    exact settled.busy _ _ (by exact (nomatch ·))
  · obtain ⟨written, failed⟩ := exec_completes c s run noneHeld queue given
    rcases isEnd with ⟨isWrite, works, ring, e, op⟩ | ⟨sector, left, isErase, ring, op, few⟩
    · obtain rfl := isWrite
      have provisioned := completeProvisioning_provisioned f req (writePassed e s) run settings request wanted
      have comes := exec_provisioned _ f req s _ _ (written e rfl op ring) provisioned noIntake noneWaits queue
      have state : (writePassed e s).journal.state = .ready := if_neg (Bool.eq_false_iff.1 works)
      have replied := provisioned.replied
      rw [state] at replied
      refine ⟨_, comes, by rw [provisioned.provisioning], by rw [provisioned.provisioning],
        by rw [provisioned.provisioning]; exact settings, provisioned.domain, provisioned.account, fun switching => ?_,
        by rw [provisioned.tokens], provisioned.meter, by rw [provisioned.journal], by rw [provisioned.journal]; rfl,
        fun wf x isHead k => ?_, fun _ sector left isErase => (nomatch isErase), ?_,
        fun _ => ⟨by rw [provisioned.journal]; exact works, by rw [provisioned.journal]; rfl,
          by rw [provisioned.journal]; rfl, replied.pump⟩, fun other => absurd rfl other⟩
      · rw [provisioned.account]
        exact provisioned.caps switching
      · obtain rfl : e = x := FlashOp.head.inj (op.symm.trans isHead)
        rw [provisioned.flash]
        exact writePassed_slots e s wf k
      · rw [pump_notices]
        exact provisioned.accountState
    · obtain rfl := isErase
      have provisioned := completeProvisioning_provisioned f req (raise .journalFailed
        (failedAfter (flashEraseFailed s.flash sector left) (addBad s.journal.bad sector) s))
        (by rw [raise_supply]; exact run) (by rw [raise_provisioning]; exact settings)
        (by rw [raise_provisioning]; exact request) (by rw [raise_cancelled]; exact wanted)
      have comes := exec_provisioned _ f req s _ _ (failed sector left rfl ring op few) provisioned
        (by rw [raise_tokens]; exact noIntake) (by rw [raise_relay]; exact noneWaits) (by rw [raise_journal]; rfl)
      have replied := provisioned.replied
      rw [raise_journal, show (failedAfter (flashEraseFailed s.flash sector left)
        (addBad s.journal.bad sector) s).journal.state = .failed from rfl] at replied
      refine ⟨_, comes, by rw [provisioned.provisioning], by rw [provisioned.provisioning],
        by rw [provisioned.provisioning, raise_provisioning]; exact settings,
        provisioned.domain.trans (by rw [raise_domain]; rfl), provisioned.account, fun switching => ?_,
        by rw [provisioned.tokens], provisioned.meter, by rw [provisioned.journal],
        by rw [provisioned.journal, raise_journal]; rfl, fun wf x isHead => (nomatch op.symm.trans isHead),
        fun wf other left' same isOp => ?_, ?_, fun isWrite => (nomatch isWrite),
        fun _ => ⟨by rw [provisioned.journal, raise_journal]; rfl, ?_, replied.pump⟩⟩
      · rw [provisioned.account]
        exact provisioned.caps (by rw [raise_switches]; exact switching)
      · obtain rfl : sector = other := FlashOp.erase.inj (op.symm.trans isOp)
        obtain ⟨-, rfl⟩ := Instr.sectorEraseEnd.inj same
        rw [provisioned.flash, raise_flash]
        exact fun k => flashRead_flashEraseFailed _ wf _ _ _
      · rw [pump_notices]
        exact provisioned.accountState
      · rw [pump_notices]
        exact provisioned.journalFailed (by rw [raise_journal]; rfl)
  · subst isAccount
    obtain ⟨count, minute⟩ := latestTallyPoint_count f.initialTime
    refine ⟨rfl, rfl, rfl, rfl, rfl, rfl, rfl, rfl, rfl, rfl, rfl, fun i => same_get 0 i, count, minute, fun tariff is => ?_⟩
    have isInitial : initialTariff f = tariff := by rw [initialTariff, is, Option.getD_some]
    subst isInitial
    exact ⟨rfl, rfl, rfl⟩

end Sys2Proof.Machine
end

section
/-! The steps of the start event (R130). -/

namespace Sys2Proof.Machine

/-! ## What a link keeps -/

/-- A link that has kept every reply of another, and has no request cancelled that the other had not. -/
structure Onward (l m : Link) : Prop where
  replied : ∀ r, Replied r l → Replied r m
  cancelled : ∀ i ∈ m.cancelled, i ∈ l.cancelled

theorem Onward.refl (l : Link) : Onward l l := ⟨fun _ h => h, fun _ h => h⟩

theorem Onward.trans {l m n : Link} (first : Onward l m) (last : Onward m n) : Onward l n :=
  ⟨fun r h => last.replied r (first.replied r h), fun i h => first.cancelled i (last.cancelled i h)⟩

theorem Onward.heldAnswered {l m n : Link} {held : List Request} {body : Request → List Byte} (first : Onward l m)
    (answers : HeldAnswered held body m n) : HeldAnswered held body l n :=
  fun r isHeld wanted => answers r isHeld fun gone => wanted (first.cancelled _ gone)

theorem heldAnswered_onward {l m n : Link} {held : List Request} {body : Request → List Byte}
    (answers : HeldAnswered held body l m) (last : ∀ r, Replied r m → Replied r n) : HeldAnswered held body l n :=
  fun r isHeld wanted => last _ (answers r isHeld wanted)

theorem raiseIf_onward (b : Bool) (c : NoticeCause) (s : State) : Onward s.link (raiseIf b c s).link where
  replied r h := by rwa [Replied, raiseIf_replies, raiseIf_completed]
  cancelled i h := by rwa [raiseIf_cancelled] at h

theorem raise_onward (c : NoticeCause) (s : State) : Onward s.link (raise c s).link := raiseIf_onward true c s

theorem answer_onward (req : Request) (body : List Byte) (s : State) (awake : s.supply.power.awake = true) :
    Onward s.link (answer req body s).link :=
  ⟨fun x h => replied_completeReply x _ s awake (.inr h), fun i h => cancelled_completeReply i _ s h⟩

theorem foldl_answer_onward (f : State → Request → List Byte) (held : List Request) (s : State)
    (awake : s.supply.power.awake = true) :
    Onward s.link (held.foldl (fun s r => answer r (f s r) s) s).link := by
  induction held generalizing s with
  | nil => exact .refl _
  | cons r rest ih =>
    exact (answer_onward r (f s r) s awake).trans (ih _ (by rw [answer, completeReply_supply]; exact awake))

theorem takeCharged_onward (c : Charged) (s : State) : Onward s.link (takeCharged c s).link := by
  have given : Onward s.link (giveCaps { s with account.acct := c.acct }).link := by
    rw [giveCaps_link]
    exact .refl _
  exact given.trans (((raiseIf_onward _ _ _).trans (raiseIf_onward _ _ _)).trans (raiseIf_onward _ _ _))

theorem pump_onward (l : Link) : Onward l l.pump :=
  ⟨fun _ h => h.pump, fun i h => by rwa [pump_cancelled] at h⟩

/-! ## The account loaded (R26, R102) -/

/-- The part with its account and window loaded and its counts restored, before the held METER requests are served. -/
def restored (found : Option Found) (s : State) : State :=
  let x := startAccount (decide (s.provisioning.condition = .valid)) s.provisioning.settings found
  restoreMeter { s with account := ⟨x.1, false, none, true⟩, tokens := { s.tokens with window := x.2 } }

theorem loadAccount_restored (found : Option Found) (s : State) :
    loadAccount found s = serveHeldMeter (restored found s) := rfl

theorem serveHeldMeter_eq (s : State) : serveHeldMeter s = { s with
    meter := { s.meter with held := [] }, link := (serveHeldMeter s).link } := by
  have all (held : List Request) (t : State) :
      held.foldl answerMeter t = { t with link := (held.foldl answerMeter t).link } := by
    induction held generalizing t with
    | nil => rfl
    | cons req rest ih => rw [List.foldl_cons, ih (answerMeter t req), answerMeter, answer, completeReply_eq]
  exact all _ _

theorem serveHeldMeter_notices (s : State) : (serveHeldMeter s).link.notices = s.link.notices := by
  have all (held : List Request) (t : State) : (held.foldl answerMeter t).link.notices = t.link.notices := by
    induction held generalizing t with
    | nil => rfl
    | cons req rest ih => rw [List.foldl_cons, ih, answerMeter, answer, completeReply_notices]
  exact all _ _

/-- The METER reply as the counts are restored (R102, Table 12-13). -/
theorem meterBody_restored (found : Option Found) (s : State) :
    meterBody (restored found s) = restoredMeterBody (restored found s).account.acct s.meter.sampling := by
  rw [meterBody_eq, restored, restoreMeter, restoredMeterBody]
  simp [PerPort.bytes, PerPort.map, PerPort.zip, MeterPort.start, natBytes]

/-- What loading the account makes of the part. -/
structure Loaded (found : Option Found) (s t : State) : Prop where
  rest : t = { s with
    account := ⟨(startAccount (decide (s.provisioning.condition = .valid)) s.provisioning.settings found).1, false, none, true⟩
    tokens := { s.tokens with
      window := (startAccount (decide (s.provisioning.condition = .valid)) s.provisioning.settings found).2 }
    meter := { s.meter with ports := t.meter.ports, lastVoltage := 0, held := [] }
    link := t.link }
  counts : t.meter.counts = t.account.acct.marks
  notices : t.link.notices = s.link.notices
  onward : Onward s.link t.link
  answered : HeldAnswered s.meter.held (fun _ => restoredMeterBody t.account.acct s.meter.sampling) s.link t.link

theorem loadAccount_loads (found : Option Found) (s : State) (awake : s.supply.power.awake = true) :
    Loaded found s (loadAccount found s) := by
  have served := serveHeldMeter_eq (restored found s)
  obtain ⟨-, answers, -⟩ := serveHeldMeter_answers (restored found s) awake
  refine ⟨?_, ?_, ?_, ?_, ?_⟩ <;> rw [loadAccount_restored]
  · rw [served]
    rfl
  · rw [served]
    rfl
  · exact serveHeldMeter_notices (restored found s)
  · exact foldl_answer_onward (fun s _ => meterBody s) (restored found s).meter.held
      { restored found s with meter := { (restored found s).meter with held := [] } } awake
  · have account : (serveHeldMeter (restored found s)).account = (restored found s).account := by rw [served]
    rw [account, ← meterBody_restored]
    exact answers

/-! ## Levels, and RUN (R24, R121, R122) -/

/-- The part with its caps and its shed level given, before SHED_LEVEL is raised. -/
def levelsGiven (s : State) : State :=
  giveShedLevel { giveCaps s with
    supply := { (giveCaps s).supply with shedLevel := belowCount s.thresholds s.supply.battery } }

theorem startLevels_given (s : State) :
    startLevels s = raiseIf (decide (0 < belowCount s.thresholds s.supply.battery)) .shedLevel (levelsGiven s) :=
  rfl

theorem levelsGiven_eq (s : State) : levelsGiven s = { s with
    switches := (levelsGiven s).switches
    supply := { s.supply with shedLevel := belowCount s.thresholds s.supply.battery } } := by
  refine state_ext ?_ ?_ ?_ ?_ ?_ ?_ ?_ ?_ rfl ?_ ?_ ?_ ?_ ?_ <;> simp [levelsGiven]

theorem levelsGiven_caps (s : State) (switching : s.switches.switching = true) (i : Fin 4) :
    ((levelsGiven s).switches.ports.get i).accountCap =
      (accountCaps (tariffOf s.provisioning.settings s.account.acct.activeTariff) s.account.acct).get i := by
  rw [levelsGiven, giveShedLevel_port _ i (by exact (giveCaps_switching s).trans switching), (giveShedLevel_kept _ _ _).1,
    giveCaps_port s switching i]
  exact (retarget_kept _).2.2.1

/-- The causes that the end of a start raises: SHED_LEVEL, JOURNAL_FAILED and BACKUP_WEAK (R130, R149, R122). -/
def startCause (s : State) (i : Nat) : Prop :=
  i = 6 ∧ 0 < belowCount s.thresholds s.supply.battery
    ∨ i = 10 ∧ s.provisioning.condition = .valid ∧ s.journal.failed = true
    ∨ i = 12 ∧ s.domain.backup = .weak

/-- What the last steps of a start make of the part. -/
structure Entered (s t : State) : Prop where
  rest : t = { s with
    switches := t.switches
    meter := { s.meter with sampling := true }
    supply := { s.supply with power := .run, shedLevel := belowCount s.thresholds s.supply.battery }
    journal := { s.journal with held := [] }
    link := t.link }
  caps : s.switches.switching = true → ∀ i, (t.switches.ports.get i).accountCap =
    (accountCaps (tariffOf s.provisioning.settings s.account.acct.activeTariff) s.account.acct).get i
  notices : ∀ i, t.link.notices.getLsbD i = true ↔ s.link.notices.getLsbD i = true ∨ startCause s i
  onward : ∀ r, Replied r s.link → Replied r t.link
  answered : HeldAnswered s.journal.held (fun r => historyBody s.flash (fieldAt r.body 0 4)) s.link t.link

/-- The part in RUN after its causes have been raised, before the held HISTORY requests are served. -/
def runEntered (s : State) : State :=
  let t := raiseIf (decide (s.provisioning.condition = .valid) && s.journal.failed) .journalFailed
    (raiseIf (decide (s.domain.backup = .weak)) .backupWeak s)
  { t with
    supply := { t.supply with power := .run }
    meter := { t.meter with sampling := true } }

theorem enterRun_eq (s : State) : enterRun s = serveHeldHistory (runEntered s) := rfl

theorem runEntered_rest (s : State) : runEntered s = { s with
    supply := { s.supply with power := .run }
    meter := { s.meter with sampling := true }
    link := (runEntered s).link } := by
  refine state_ext ?_ ?_ ?_ ?_ ?_ ?_ ?_ ?_ ?_ ?_ ?_ ?_ rfl ?_ <;> simp [runEntered]

theorem startLevels_rest (s : State) : startLevels s = { s with
    switches := (levelsGiven s).switches
    supply := { s.supply with shedLevel := belowCount s.thresholds s.supply.battery }
    link := (startLevels s).link } := by
  have given := levelsGiven_eq s
  refine state_ext ?_ ?_ ?_ ?_ ?_ ?_ ?_ ?_ ?_ ?_ ?_ ?_ rfl ?_ <;> rw [startLevels_given] <;> simp only [raiseIf_pending,
    raiseIf_provisioning, raiseIf_flash, raiseIf_domain, raiseIf_account, raiseIf_tokens, raiseIf_digests, raiseIf_meter,
    raiseIf_switches, raiseIf_supply, raiseIf_journal, raiseIf_relay, raiseIf_idleMilliseconds] <;> rw [given]

theorem startLevels_bit (s : State) (starting : s.supply.power = .starting) (i : Nat) :
    (startLevels s).link.notices.getLsbD i = true ↔
      s.link.notices.getLsbD i = true ∨ i = 6 ∧ 0 < belowCount s.thresholds s.supply.battery := by
  rw [startLevels_given, raiseIf_bit, levelsGiven_eq]
  simp [starting, NoticeCause.index, and_comm]

theorem runEntered_bit (s : State) (starting : s.supply.power = .starting) (i : Nat) :
    (runEntered s).link.notices.getLsbD i = true ↔ s.link.notices.getLsbD i = true
      ∨ i = 10 ∧ s.provisioning.condition = .valid ∧ s.journal.failed = true ∨ i = 12 ∧ s.domain.backup = .weak := by
  show (raiseIf _ .journalFailed (raiseIf _ .backupWeak s)).link.notices.getLsbD i = true ↔ _
  rw [raiseIf_bit, raiseIf_bit, raiseIf_supply]
  simp only [Bool.or_eq_true, Bool.and_eq_true, decide_eq_true_eq, starting, NoticeCause.index]
  tauto

theorem startLevels_onward (s : State) : Onward s.link (startLevels s).link := by
  have given : (levelsGiven s).link = s.link := by rw [levelsGiven_eq]
  have raised := raiseIf_onward (decide (0 < belowCount s.thresholds s.supply.battery)) .shedLevel (levelsGiven s)
  rwa [given] at raised

theorem runEntered_onward (s : State) : Onward s.link (runEntered s).link :=
  (raiseIf_onward _ _ s).trans (raiseIf_onward _ _ _)

theorem enterRun_rest (s : State) : enterRun s = { s with
    meter := { s.meter with sampling := true }
    supply := { s.supply with power := .run }
    journal := { s.journal with held := [] }
    link := (enterRun s).link } := by
  have served := serveHeldHistory_eq (runEntered s)
  have power : (runEntered s).supply.power = .run := rfl
  have journal : (runEntered s).journal = s.journal := by rw [runEntered_rest]
  refine state_ext (journal := ?journal) (link := rfl) ?_ ?_ ?_ ?_ ?_ ?_ ?_ ?_ ?_ ?_ ?_ ?_
  case journal => rw [enterRun_eq, served, if_pos power, journal]
  all_goals
    simp only [enterRun_eq, serveHeldHistory_pending, serveHeldHistory_provisioning, serveHeldHistory_flash,
      serveHeldHistory_domain, serveHeldHistory_account, serveHeldHistory_tokens, serveHeldHistory_digests,
      serveHeldHistory_meter, serveHeldHistory_switches, serveHeldHistory_supply, serveHeldHistory_relay,
      serveHeldHistory_idleMilliseconds]
    rw [runEntered_rest]

theorem start_enters (s : State) (starting : s.supply.power = .starting) : Entered s (enterRun (startLevels s)) := by
  have levels := startLevels_rest s
  have run := runEntered_rest (startLevels s)
  have held : (runEntered (startLevels s)).journal.held = s.journal.held := by rw [run, levels]
  have flash : (runEntered (startLevels s)).flash = s.flash := by rw [run, levels]
  have onward := (startLevels_onward s).trans (runEntered_onward (startLevels s))
  obtain ⟨-, answers, kept⟩ := serveHeldHistory_answers (runEntered (startLevels s)) rfl
  refine ⟨?_, fun switching i => ?_, fun i => ?_, fun r h => kept r (onward.replied r h), ?_⟩
  · rw [enterRun_rest (startLevels s), levels]
  · rw [enterRun_rest (startLevels s), levels]
    exact levelsGiven_caps s switching i
  · rw [enterRun_eq, serveHeldHistory_notices, runEntered_bit _ (by rw [levels]; exact starting),
      startLevels_bit s starting, startCause, levels]
    exact or_assoc
  · rw [held, flash] at answers
    exact onward.heldAnswered answers

/-! ## The end of the event -/

theorem replied_settleToken (x : Reply) (r : TokenResult) (extra : List Byte) (s : State)
    (awake : s.supply.power.awake = true) (h : Replied x s.link) : Replied x (settleToken r extra s).link := by
  cases held : s.tokens.intake with
  | nil =>
    rw [settleToken, held]
    exact h
  | cons e rest =>
    cases source : e.source with
    | keypad req =>
      rw [settleToken_ofKeypad r extra s e rest req held source]
      exact (answer_onward req _ { s with tokens := { s.tokens with intake := rest, service := .idle } } awake).replied x h
    | relay =>
      rw [settleToken_ofRelay r extra s e rest held source]
      exact (raise_onward .tokenDone _).replied x h

theorem replied_serveTokens (x : Reply) (n : Nat) (s : State) (awake : s.supply.power.awake = true) (h : Replied x s.link) :
    Replied x (serveTokens n s).link := by
  induction n generalizing s with
  | zero => exact h
  | succ n ih =>
    unfold serveTokens
    split
    · split
      · exact h
      · split
        · exact ih _ (by rw [settleToken_supply]; exact awake) (replied_settleToken x _ _ s awake h)
        · rw [requestDigest_link]
          exact h
    · exact h

theorem replied_finish (x : Reply) (order : DigestOrder) (s : State) (awake : s.supply.power.awake = true)
    (h : Replied x s.link) : Replied x (finish order s).link := by
  have units : Replied x (settleUnits order s).link := by
    cases order with
    | tokenFirst =>
      exact replied_serveStore x _ _ (by rw [settleTokens, serveTokens_supply]; exact awake) (replied_serveTokens x _ s awake h)
    | storeFirst =>
      exact replied_serveTokens x _ _ (by rw [settleStore, serveStore_supply]; exact awake) (replied_serveStore x _ s awake h)
  rw [finish]
  dsimp only
  rw [journalGoOn_link]
  exact units.pump

theorem finish_queue (order : DigestOrder) (s : State) :
    (finish order s).journal.queue = s.journal.queue ∧ (finish order s).journal.held = s.journal.held := by
  have same := settleUnits_journal order s
  have goesOn := journalGoOn_eq (settleUnits order s)
  have ends : (finish order s).journal = (journalGoOn (settleUnits order s)).journal := rfl
  rw [ends, goesOn, same]
  exact ⟨rfl, rfl⟩

end Sys2Proof.Machine
end

section
/-! The start event, warm and cold (O57, O58). -/

namespace Sys2Proof.Machine

/-! ## What the end of an event leaves of the window -/

theorem settleToken_window (r : TokenResult) (x : List Byte) (s : State) :
    (settleToken r x s).tokens.window = s.tokens.window := by
  cases held : s.tokens.intake with
  | nil => rw [settleToken, held]
  | cons e rest => rw [settleToken_tokens r x s e rest held]

theorem serveTokens_window (n : Nat) (s : State) : (serveTokens n s).tokens.window = s.tokens.window := by
  induction n generalizing s with
  | zero => rfl
  | succ n ih =>
    unfold serveTokens
    split
    · split
      · rfl
      · split
        · rw [ih, settleToken_window]
        · rw [requestDigest_tokens]
    · rfl

theorem finish_window (order : DigestOrder) (s : State) : (finish order s).tokens.window = s.tokens.window := by
  rw [finish]
  dsimp only
  rw [journalGoOn_tokens]
  cases order with
  | tokenFirst => rw [settleUnits, settleStore, serveStore_tokens, settleTokens, serveTokens_window]
  | storeFirst => rw [settleUnits, settleTokens, serveTokens_window, settleStore, serveStore_tokens]

/-! ## The warm start (R26, R38) -/

theorem mergeLast_holds_tally (restart : Bool) (queue merged : List Queued) (h : mergeLast restart queue = some merged) :
    ∃ b, Queued.tally b ∈ merged := by
  induction queue generalizing merged with
  | nil => cases h
  | cons q rest ih =>
    unfold mergeLast at h
    split at h
    case h_1 inner isInner =>
      obtain rfl := Option.some.inj h
      obtain ⟨b, mem⟩ := ih inner isInner
      exact ⟨b, List.mem_cons_of_mem _ mem⟩
    case h_2 =>
      split at h
      · obtain rfl := Option.some.inj h
        exact ⟨_, List.mem_cons_self⟩
      · cases h

theorem joinTally_holds_tally (restart : Bool) (queue : List Queued) : ∃ b, Queued.tally b ∈ joinTally restart queue := by
  unfold joinTally
  cases merged : mergeLast restart queue with
  | none => exact ⟨restart, List.mem_append_right _ List.mem_cons_self⟩
  | some m => exact mergeLast_holds_tally restart queue m merged

/-- A TALLY submitted to a journal that works waits in its queue (R136, R137). -/
theorem submitTally_waits (restart : Bool) (s : State) (works : s.journal.failed = false) :
    ∃ b, Queued.tally b ∈ (submitTally restart s).journal.queue := by
  unfold submitTally
  rw [if_neg (by rw [works]; decide)]
  split
  · obtain ⟨b, mem⟩ := joinTally_holds_tally restart ‹_›
    exact ⟨b, List.mem_cons_of_mem _ mem⟩
  · exact joinTally_holds_tally restart _

/-- The catch-up of a warm start, from the account loaded and the clock (R38). -/
def warmCaught (s : State) : Charged :=
  catchUp s.provisioning.settings
    (warmIntervals (tariffOf s.provisioning.settings s.account.acct.activeTariff) s.account.acct.lastTally s.domain.clock.time)
    (decide (s.account.acct.lastTally.day < s.domain.clock.time.day)) s.domain.clock.time s.account.acct

theorem warmCatchUp_eq (s : State) : warmCatchUp s = submitTally false (takeCharged (warmCaught s) s) := rfl

theorem warmCatchUp_rest (s : State) : warmCatchUp s = { s with
    account := { s.account with acct := (warmCaught s).acct }
    switches := (warmCatchUp s).switches
    journal := { s.journal with queue := (warmCatchUp s).journal.queue }
    link := (takeCharged (warmCaught s) s).link } := by
  refine state_ext (journal := ?journal) (switches := rfl) ?_ ?_ ?_ ?_ ?_ ?_ ?_ ?_ ?_ ?_ ?_ ?_
  case journal =>
    rw [warmCatchUp_eq, submitTally_journal_queue, takeCharged_journal]
  all_goals simp [warmCatchUp_eq, takeCharged_account]

theorem takeCharged_otherBit (c : Charged) (s : State) (i : Nat) (other : i ≠ 0 ∧ i ≠ 1 ∧ i ≠ 3) :
    (takeCharged c s).link.notices.getLsbD i = s.link.notices.getLsbD i := by
  obtain ⟨notState, notLow, notTariff⟩ := other
  rw [takeCharged, raiseIf_otherBit _ .tariffApplied _ i notTariff, raiseIf_otherBit _ .lowCredit _ i notLow,
    raiseIf_otherBit _ .accountState _ i notState, giveCaps_link]

/-! ## RUN begun -/

/-- The part after the start's last steps and the end of its event. -/
structure Begun (s t : State) : Prop where
  power : t.supply.power = .run
  shedLevel : t.supply.shedLevel = belowCount s.thresholds s.supply.battery
  meter : t.meter = { s.meter with sampling := true }
  account : t.account = s.account
  window : t.tokens.window = s.tokens.window
  domain : t.domain = s.domain
  flash : t.flash = s.flash
  provisioning : t.provisioning = s.provisioning
  queue : t.journal.queue = s.journal.queue
  held : t.journal.held = []
  caps : s.switches.switching = true → ∀ i, (t.switches.ports.get i).accountCap =
    (accountCaps (tariffOf s.provisioning.settings s.account.acct.activeTariff) s.account.acct).get i
  notices : ∀ i, i ≠ 2 → (t.link.notices.getLsbD i = true ↔ s.link.notices.getLsbD i = true ∨ startCause s i)
  onward : ∀ r, Replied r s.link → Replied r t.link
  answered : HeldAnswered s.journal.held (fun r => historyBody s.flash (fieldAt r.body 0 4)) s.link t.link

theorem finish_begun (order : DigestOrder) (s : State) (starting : s.supply.power = .starting) :
    Begun s (finish order (enterRun (startLevels s))) := by
  obtain ⟨rest, caps, notices, onward, answered⟩ := start_enters s starting
  have awake : (enterRun (startLevels s)).supply.power.awake = true := by rw [rest]; rfl
  obtain ⟨queue, held⟩ := finish_queue order (enterRun (startLevels s))
  refine ⟨?_, ?_, ?_, ?_, ?_, ?_, ?_, ?_, ?_, ?_, ?_, fun i other => ?_, fun r h => replied_finish r order _ awake (onward r h),
    fun r isHeld wanted => replied_finish _ order _ awake (answered r isHeld wanted)⟩
  · rw [finish_supply, rest]
  · rw [finish_supply, rest]
  · rw [finish_meter, rest]
  · rw [finish_account, rest]
  · rw [finish_window, rest]
  · rw [finish_domain, rest]
  · rw [finish_flash, rest]
  · rw [finish_provisioning, rest]
  · rw [queue, rest]
  · rw [held, rest]
  · rw [finish_switches]
    exact caps
  · rw [finish_bit order _ i other]
    exact notices i

theorem exec_startEvent (order : DigestOrder) (found : Option Found) (s : State) (starting : s.supply.power = .starting)
    (given : s.supply.givenUp = false) (replay : s.supply.replay = .done found) :
    exec (.startEvent order) s = .next (finish order (start found s)) := by
  have begins : startEvent s = start found s := by
    rw [startEvent, if_pos ⟨starting, given⟩, replay]
  exact begins ▸ rfl

theorem startAccount_valid (f : Settings) (found : Option Found) (a : Account) (w : Window)
    (some_ : ∀ x, found = some x → a = x.acct ∧ w = x.window)
    (none_ : found = none → a = { provisionedAccount f with state := .locked, balance := 0, ct := 0 } ∧ w = ⟨0, []⟩) :
    startAccount true f found = (a, w) := by
  cases found with
  | none =>
    obtain ⟨rfl, rfl⟩ := none_ rfl
    rfl
  | some x =>
    obtain ⟨rfl, rfl⟩ := some_ x rfl
    rfl

theorem thresholds_of_provisioning (s t : State) (same : t.provisioning = s.provisioning) : t.thresholds = s.thresholds := by
  unfold State.thresholds
  rw [levels_of_provisioning t s same, same]

/-- A warm start, step by step. -/
theorem start_warm (found : Option Found) (s : State) (valid : s.provisioning.condition = .valid)
    (set : s.domain.clock.timeSet = true) :
    start found s = enterRun (startLevels (warmCatchUp (loadAccount found s))) := by
  have clock : startClock found s = s := if_pos set
  rw [start, clock, set, decide_eq_true valid]
  rfl

/-- The units of a part in RUN whose Token Unit takes its oldest entry into service (R48). -/
theorem finish_takes (order : DigestOrder) (s : State) (e : IntakeEntry) (more : List IntakeEntry)
    (run : s.supply.power = .run) (idle : s.tokens.service = .idle) (intake : s.tokens.intake = e :: more)
    (taken : serviceStart s.domain.penalty e = none)
    (store : s.relay.service = none ∧ s.domain.clock.timeSet = true → s.relay.waiting = []) :
    (finish order s).tokens = { s.tokens with service := .awaitDigest }
      ∧ (finish order s).digests = s.digests ++ [checkRequest s.provisioning.settings e.token] := by
  have takes : settleTokens s = { s with
      tokens := { s.tokens with service := .awaitDigest }
      digests := s.digests ++ [checkRequest s.provisioning.settings e.token] } := by
    rw [settleTokens_eq_of_length (more.length + 1) s (by rw [intake]; rfl)]
    exact serveTokens_takes more.length s e more run idle intake taken
  have same : finish order s = finish order (settleTokens s) := by
    cases order with
    | tokenFirst => exact (finish_settleTokens s).symm
    | storeFirst => exact finish_storeFirst s store
  have ends := finish_goesOn order (settleTokens s) (by rw [takes]; exact fun both => (nomatch both.2))
    (by rw [takes]; exact store)
  rw [same, ends, takes]
  exact ⟨rfl, rfl⟩

/-- Settles O57: the account loaded, the catch-up, the last steps, and the end of the event. -/
theorem theStartEvent : Obligations.TheStartEvent := by
  refine ⟨fun order s settled => ⟨fun found a w caught starting given replay valid set some_ none_ isCaught => ?_,
    fun stays => ?_⟩, fun t last now => ?_⟩
  · obtain ⟨loads, counts, notices, onward, answered⟩ := loadAccount_loads found s (congrArg Power.awake starting)
    rw [decide_eq_true valid, startAccount_valid _ found a w some_ none_] at loads
    have comes := exec_startEvent order found s starting given replay
    rw [start_warm found s valid set] at comes
    generalize loadAccount found s = l at loads counts notices onward answered comes
    have account : l.account.acct = a := by rw [loads]
    have domain : l.domain = s.domain := by rw [loads]
    have provisioning : l.provisioning = s.provisioning := by rw [loads]
    have isWarm : warmCaught l = caught := by
      rw [warmCaught, account, domain, provisioning, isCaught]
      rfl
    have rest := warmCatchUp_rest l
    have begun := finish_begun order (warmCatchUp l) (by rw [rest, loads]; exact starting)
    have chargeOnward := takeCharged_onward caught l
    have chargeBits := takeCharged_bits caught l (by rw [loads, starting]; decide)
    rw [isWarm] at rest
    have settings : (warmCatchUp l).provisioning = s.provisioning := by rw [rest, loads]
    have supply : (warmCatchUp l).supply = s.supply := by rw [rest, loads]
    have meter : (warmCatchUp l).meter = l.meter := by rw [rest]
    have loaded : (warmCatchUp l).account = ⟨caught.acct, false, none, true⟩ := by rw [rest, loads]
    have window : (warmCatchUp l).tokens = { s.tokens with window := w } := by rw [rest, loads]
    have clock : (warmCatchUp l).domain = s.domain := by rw [rest, domain]
    have flash : (warmCatchUp l).flash = s.flash := by rw [rest, loads]
    have failed : (warmCatchUp l).journal.failed = s.journal.failed := by rw [rest, loads]
    have held : (warmCatchUp l).journal.held = s.journal.held := by rw [rest, loads]
    have link : (warmCatchUp l).link = (takeCharged caught l).link := by rw [rest]
    have thresholds := thresholds_of_provisioning s (warmCatchUp l) settings
    have entered := (start_enters (warmCatchUp l) (by rw [supply]; exact starting)).rest
    have store : (enterRun (startLevels (warmCatchUp l))).relay.service = none
        ∧ (enterRun (startLevels (warmCatchUp l))).domain.clock.timeSet = true →
        (enterRun (startLevels (warmCatchUp l))).relay.waiting = [] := by
      rw [entered, rest, loads]
      exact settled.1.2.1
    have bit (i : Nat) (other : i ≠ 2) : (finish order (enterRun (startLevels (warmCatchUp l)))).link.notices.getLsbD i = true
        ↔ (takeCharged caught l).link.notices.getLsbD i = true ∨ startCause (warmCatchUp l) i := by
      rw [begun.notices i other, link]
    rw [account, notices] at chargeBits
    obtain ⟨bit0, bit1, bit3⟩ := chargeBits
    have others (i : Nat) (other : i ≠ 0 ∧ i ≠ 1 ∧ i ≠ 3) := (takeCharged_otherBit caught l i other).trans (by rw [notices])
    refine ⟨_, comes, begun.power, ?_, begun.account.trans loaded, ?_, ?_, ?_, fun switching => ?_, fun works => ?_,
      fun isFailed => ?_, begun.domain.trans clock, begun.flash.trans flash, ?_, ?_, ?_, ?_, ?_, ?_, ?_, ?_, begun.held,
      ?_, ?_, fun quiet => ?_, fun e more idle intake nonzero free => ?_⟩
    · rw [begun.meter]
    · rw [begun.window, window]
    · rw [begun.meter, meter, ← account, ← counts]
      rfl
    · rw [begun.shedLevel, thresholds, supply]
    · have isOn : (warmCatchUp l).switches.switching = true := by
        rw [warmCatchUp_eq, submitTally_switches, takeCharged_switching, loads]
        exact switching
      have caps := begun.caps isOn
      rw [settings, loaded] at caps
      rw [begun.account, loaded]
      exact caps
    · obtain ⟨b, waits⟩ := submitTally_waits false (takeCharged (warmCaught l) l) (by
        rw [takeCharged_journal, loads]
        exact works)
      rw [begun.queue]
      refine ⟨_, waits, ?_⟩
      cases b
      · exact .inl rfl
      · exact .inr rfl
    · rw [begun.queue, warmCatchUp_eq, submitTally_failed _ _ (by rw [takeCharged_journal, loads]; exact isFailed),
        takeCharged_journal, loads]
    · rw [Bool.eq_iff_iff, bit 0 (by decide), bit0]
      simp [startCause]
    · rw [Bool.eq_iff_iff, bit 1 (by decide), bit1]
      simp [startCause]
    · rw [Bool.eq_iff_iff, bit 3 (by decide), bit3]
      simp [startCause]
    · rw [Bool.eq_iff_iff, bit 4 (by decide), others 4 (by decide)]
      simp [startCause]
    · rw [Bool.eq_iff_iff, bit 6 (by decide), others 6 (by decide), begun.shedLevel]
      simp [startCause]
    · rw [Bool.eq_iff_iff, bit 10 (by decide), others 10 (by decide)]
      simp [startCause, settings, valid, failed]
    · rw [Bool.eq_iff_iff, bit 12 (by decide), others 12 (by decide)]
      simp [startCause, clock]
    · rw [begun.meter, meter, loads]
    · rw [account] at answered
      refine heldAnswered_onward answered fun r h => begun.onward r ?_
      rw [link]
      exact chargeOnward.replied r h
    · have history := begun.answered
      rw [held, flash, link] at history
      exact (onward.trans chargeOnward).heldAnswered history
    · rw [finish_goesOn order _ (by rw [entered, window]; exact fun both => quiet.resolve_left (not_not.2 both.2)) store, entered]
      dsimp only
      rw [window, rest, loads]
      exact ⟨rfl, rfl⟩
    · have takes := finish_takes order (enterRun (startLevels (warmCatchUp l))) e more (by rw [entered])
        (by rw [entered, window]; exact idle) (by rw [entered, window]; exact intake)
        (by rw [entered, clock]; exact serviceStart_none _ e nonzero free) store
      rw [takes.1, takes.2, entered]
      dsimp only
      rw [window, settings, rest, loads]
      exact ⟨rfl, rfl⟩
  · have same : startEvent s = s := by
      unfold startEvent
      split
      case isTrue both =>
        split
        case h_1 found replay =>
          rcases stays with notStarting | given | notDone
          · exact absurd both.1 notStarting
          · rw [both.2] at given
            cases given
          · exact absurd replay (notDone found)
        case h_2 => rfl
      case isFalse => rfl
    show Host.Outcome.next (finish order (startEvent s)) = _
    rw [same, finish_settled order s settled]
  · unfold warmIntervals tallyPoints ClockTime.count
    cases t.mode <;> rfl

/-! ## The cold start (R90, R130) -/

/-- The clock's part of a cold start: what it makes of the domain and of the notice set (R90, R67). -/
structure ColdClock (found : Option Found) (s t : State) : Prop where
  rest : t = { s with domain := t.domain, link := t.link }
  kept : t.domain.penalty = ⟨5, 1, 60⟩ ∧ t.domain.backup = s.domain.backup ∧ t.domain.powered = s.domain.powered
  set : s.provisioning.condition = .valid → t.domain.clock =
    s.domain.clock.coldStart ((found.map Found.time).getD s.provisioning.settings.initialTime)
  unset : s.provisioning.condition ≠ .valid → t.domain.clock = s.domain.clock
  lost : s.provisioning.condition = .valid → t.link.notices.getLsbD 4 = true
  onward : Onward s.link t.link

/-- The part with its clock set from the newest entry, or from the record's initial time (R90). -/
def coldSet (found : Option Found) (s : State) : State :=
  { s with domain := { s.domain with
      penalty := .fresh
      clock := s.domain.clock.coldStart ((found.map Found.time).getD s.provisioning.settings.initialTime) } }

theorem startClock_cold (found : Option Found) (s : State) (starting : s.supply.power = .starting)
    (unset : s.domain.clock.timeSet = false) : ColdClock found s (startClock found s) := by
  have on : s.supply.power ≠ .off := by rw [starting]; decide
  by_cases valid : s.provisioning.condition = .valid
  · have clock : startClock found s = raise .clockLost (coldSet found s) := by
      unfold startClock coldSet
      rw [if_neg (by rw [unset]; decide)]
      dsimp only
      rw [if_pos valid]
      cases found <;> rfl
    rw [clock]
    refine ⟨by rw [raise_eq .clockLost (coldSet found s)]; rfl, ?_, fun _ => by rw [raise_domain]; rfl,
      fun other => absurd valid other, fun _ => ?_,
      raise_onward .clockLost (coldSet found s)⟩
    · rw [raise_domain]
      exact ⟨rfl, rfl, rfl⟩
    · rw [raise_bit, decide_eq_true, Bool.or_true]
      exact ⟨on, rfl⟩
  · have clock : startClock found s = { s with domain := { s.domain with penalty := .fresh } } := by
      unfold startClock
      rw [if_neg (by rw [unset]; decide)]
      exact if_neg valid
    rw [clock]
    exact ⟨rfl, ⟨rfl, rfl, rfl⟩, fun isValid => absurd isValid valid, fun _ => rfl, fun isValid => absurd isValid valid,
      .refl _⟩

/-- Settles O58: the clock set, the account loaded, the last steps, and the end of the event. -/
theorem coldStarts : Obligations.ColdStarts := by
  intro order found s settled starting given replay unset
  have comes := exec_startEvent order found s starting given replay
  have cold : start found s = enterRun (startLevels (loadAccount found (startClock found s))) := by
    rw [start, unset]
    rfl
  rw [cold] at comes
  have clock := startClock_cold found s starting unset
  generalize startClock found s = c at comes clock
  obtain ⟨loads, counts, loadNotices, loadOnward, answered⟩ := loadAccount_loads found c (by
    rw [clock.rest]
    exact congrArg Power.awake starting)
  generalize loadAccount found c = l at comes loads counts loadNotices loadOnward answered
  have condition : c.provisioning = s.provisioning := by rw [clock.rest]
  have settings : l.provisioning = s.provisioning := by rw [loads, condition]
  have supply : l.supply = s.supply := by rw [loads, clock.rest]
  have begun := finish_begun order l (by rw [supply]; exact starting)
  have account : l.account = ⟨(startAccount (decide (s.provisioning.condition = .valid)) s.provisioning.settings found).1,
    false, none, true⟩ := by rw [loads, condition]
  have window : l.tokens.window =
      (startAccount (decide (s.provisioning.condition = .valid)) s.provisioning.settings found).2 := by rw [loads, condition]
  have domain : l.domain = c.domain := by rw [loads]
  have journal : l.journal = s.journal := by rw [loads, clock.rest]
  have flash : l.flash = s.flash := by rw [loads, clock.rest]
  have switches : l.switches = s.switches := by rw [loads, clock.rest]
  have meter : c.meter = s.meter := by rw [clock.rest]
  have thresholds := thresholds_of_provisioning s l settings
  have caps := begun.caps
  rw [switches, settings] at caps
  refine ⟨_, comes, begun.power, ?_, ?_, ?_, ?_, begun.flash.trans flash, begun.provisioning.trans settings, ?_, ?_, ?_, ?_,
    ?_, fun switching => ?_, ?_, ?_, begun.held, ?_, ?_, fun weak => ?_,
    fun valid => ⟨fun time isTime => ?_, ?_, fun failed => ?_, fun x isFound => ?_, fun nothing => ?_⟩,
    fun invalid => ⟨?_, ?_, ?_, fun switching i => ?_⟩⟩
  · rw [begun.meter]
  · rw [begun.account, account]
  · rw [begun.account, account]
  · rw [begun.account, account]
  · rw [begun.domain, domain, clock.kept.1]
  · rw [begun.domain, domain, clock.kept.2.1]
  · rw [begun.domain, domain, clock.kept.2.2]
  · rw [begun.meter, begun.account, ← counts]
    rfl
  · rw [begun.shedLevel, thresholds, supply]
  · rw [begun.account]
    exact caps switching
  · rw [begun.queue, journal]
  · rw [begun.meter, loads]
  · rw [begun.account, ← meter]
    exact clock.onward.heldAnswered (heldAnswered_onward answered begun.onward)
  · have history := begun.answered
    rw [journal, flash] at history
    exact (clock.onward.trans loadOnward).heldAnswered history
  · rw [begun.notices 12 (by decide)]
    refine .inr (.inr (.inr ⟨rfl, ?_⟩))
    rw [domain, clock.kept.2.1]
    exact weak
  · rw [begun.domain, domain, clock.set valid, isTime]
    rfl
  · rw [begun.notices 4 (by decide), loadNotices]
    exact .inl (clock.lost valid)
  · rw [begun.notices 10 (by decide)]
    refine .inr (.inr (.inl ⟨rfl, ?_, ?_⟩))
    · rw [settings]
      exact valid
    · rw [journal]
      exact failed
  · rw [begun.account, begun.window, account, window, decide_eq_true valid, isFound]
    exact ⟨rfl, rfl⟩
  · rw [begun.account, begun.window, account, window, decide_eq_true valid, nothing]
    exact ⟨rfl, rfl⟩
  · rw [begun.domain, domain, clock.unset invalid]
  · rw [begun.account, account, decide_eq_false invalid]
    rfl
  · rw [begun.window, window, decide_eq_false invalid]
    rfl
  · rw [caps switching i, account, decide_eq_false invalid, accountCaps_get]
    rfl

end Sys2Proof.Machine
end
